-- ==== Sys2Proof/Word.lean ====
section
/-! DEFINITION. The instruction word (R11, R21: 32 bits) and the 64-bit immediate value (R11, R15). Bit 0 is the
least significant bit (R14), which is how `BitVec` numbers its bits. -/

namespace Sys2Proof

/-- The `word` input: "an opaque 32-bit unsigned value" (R21). -/
abbrev Word := BitVec 32

/-- An immediate operand value: 64 bits, two's complement (R11, R15). -/
abbrev Imm := BitVec 64

/-- A register index: one of the 32 encodings 0 to 31 (R11). -/
abbrev RegIndex := BitVec 5

end Sys2Proof
end

