-- ==== Sys2Proof/Machine/BitField.lean ====
section
/-! DEFINITION. The bit-field utilities (40_bitfield_utilities.md R120 to R123), the block's whole arithmetic. The forms
that refuse an argument outside the contract are in Machine/Ops.lean; the block calls these at the constant arguments of
R128 only. -/

namespace Sys2Proof

/-- R120: the `width`-bit unsigned value at bit position `lowBit`. The refusal outside R120's contract is
`Machine.extractChecked`. -/
def extract (w : Word) (lowBit width : Nat) : BitVec width :=
  w.extractLsb' lowBit width

/-- R121: true iff bit `n` is set. The refusal outside R121's contract is `Machine.testBitChecked`. -/
def testBit (w : Word) (n : Nat) : Bool :=
  w.getLsbD n

/-- R122: bit `ow - 1` of `value` is the sign, replicated upward to `tw` bits; the bits of `value` at `ow` and above are
ignored. R122 gives this for 1 ≤ ow ≤ tw ≤ 64 only. DESIGN CHOICE (log entry 15): outside that range, where the spec gives
no value and R245 names no refusal, the same expression stands, so `ow = 0` gives 0 and `tw < ow` the low `tw` bits. No
call site is outside it (R128). -/
def signExtend {n : Nat} (value : BitVec n) (ow tw : Nat) : BitVec tw :=
  (value.setWidth ow).signExtend tw

/-- R123: sign extension to 64 bits for immediates scaled outside the function. R123 gives this for 1 ≤ w ≤ 64 only; for
another `w` the value is the DESIGN CHOICE of `signExtend` (log entry 15): 0 for `w = 0`, the low 64 bits for `w > 64`. -/
def correctedSign {n : Nat} (value : BitVec n) (w : Nat) : Imm :=
  signExtend value w 64

end Sys2Proof
end

