-- ==== Sys2Proof/Config.lean ====
section
/-! DEFINITION. What is fixed for this hardware: the widths of its ports (R12), the bundle of output ports (R24), and the
one open parameter `T_PD` (R13, R265) with the port values that no rule gives before it has passed. -/

namespace Sys2Proof

/-- `GRP_W` = 3 (R12): the group-select input. -/
abbrev GrpCode := BitVec 3

/-- `MNEM_W` = 5 (R12): the mnemonic output. -/
abbrev MnemCode := BitVec 5

/-- `REG_W` = 6 (R12): a register identifier, `is64 ++ index`. -/
abbrev RegCode := BitVec 6

/-- `EVAL_W` = 16 (R12): the error's observed value. -/
abbrev ErrValue := BitVec 16

/-- The three ports of one operand slot i: `op_kind[i]`, `op_reg[i]`, `op_imm[i]` (R24). -/
structure SlotPorts where
  /-- `op_kind[i]` (R28). -/
  kind : BitVec 2
  /-- `op_reg[i]` (R27). -/
  reg : RegCode
  /-- `op_imm[i]`. -/
  imm : Imm
  deriving DecidableEq, Repr, Inhabited

/-- The output ports, each of the width R24 gives it; `NOPS` = 3 operand slots (R12). -/
structure OutPorts where
  /-- `ok`: 1 = decoded instruction, 0 = decode error. -/
  ok : Bool
  /-- `mnem` (R25). -/
  mnem : MnemCode
  /-- `has_cond`. -/
  hasCond : Bool
  /-- `cond` (R32). -/
  cond : BitVec 4
  slot0 : SlotPorts
  slot1 : SlotPorts
  slot2 : SlotPorts
  /-- `category` (R29). -/
  category : BitVec 2
  /-- `err_kind` (R231). -/
  errKind : BitVec 2
  /-- `err_field` (R233). -/
  errField : BitVec 4
  /-- `err_value` (R233). -/
  errValue : ErrValue
  deriving DecidableEq, Repr, Inhabited

/-- `T_PD`, the propagation delay, an OPEN parameter (R13, R266); no rule depends on its value. -/
opaque Config.tPD : Nat

/-- FREE VALUE: what the output ports show `elapsed` time units after the inputs went from `grp0`, `word0` to `grp1`,
`word1`, while `elapsed` is less than `T_PD`: "the outputs may take intermediate values that no rule gives" (R265). -/
opaque Config.transientPorts (grp0 : GrpCode) (word0 : Word) (grp1 : GrpCode) (word1 : Word) (elapsed : Nat) : OutPorts

end Sys2Proof
end

