-- ==== Sys2Proof/Syntax.lean ====
section
/-! DEFINITION. The block's vocabulary (00_scope.md R4, 10_state.md R22 to R32, 60_exceptions.md R231 and R233) and
`Instr`, one constructor per row of spec/opcode_table.json. -/

namespace Sys2Proof

/-- The five branch-class encoding groups (R22, R70). -/
inductive EncGroup
  | cond
  | uncondImm
  | test
  | compare
  | regIndirect
  deriving DecidableEq, Repr

/-- The 24 mnemonics the block emits, in the order of R25. `b` is emitted by two decoders: with a condition it is
`B.cond`, without one the unconditional `B`. -/
inductive Mnemonic
  | b | bl | bc | tbz | tbnz | cbz | cbnz
  | br | braa | brab | braaz | brabz
  | blr | blraa | blrab | blraaz | blrabz
  | ret | retaa | retab | eret | eretaa | eretab
  | drps
  deriving DecidableEq, Repr

/-- The mnemonic category (R29). `unspecified` is one defined value, not "any category" (93 I24). -/
inductive Category
  | branch
  | conditionalBranch
  | ret
  | unspecified
  deriving DecidableEq, Repr

/-- A register identifier, the pair `(is64, index)` (R27). Index 31 is the distinct identifier `W(31)` or `X(31)`; it is
not named as zero register or stack pointer. -/
structure RegId where
  is64 : Bool
  index : RegIndex
  deriving DecidableEq, Repr

/-- An operand slot: its kind and its value, set together (R26 (a), R28). -/
inductive Operand
  | none
  | reg (r : RegId)
  | imm (v : Imm)
  | pcrel (disp : Imm)
  deriving DecidableEq, Repr

/-- The decoded instruction record (R24, R26). -/
structure DecodedInstr where
  mnemonic : Mnemonic
  /-- The condition code, when one is attached (R32). -/
  cond : Option (BitVec 4)
  slot0 : Operand
  slot1 : Operand
  slot2 : Operand
  category : Category
  deriving DecidableEq, Repr

/-- The kinds of decode error (R231). -/
inductive ErrorKind
  | reservedBitViolation
  | unallocatedEncoding
  | malformedFixedField
  deriving DecidableEq, Repr

/-- The field a decode error names (R233; the code 0, NONE, is used only when there is no error). -/
inductive ErrorField
  | o1
  | op2
  | opc
  | op3
  | rn
  | op4
  | opcOp3Op4
  | op3RnOp4
  deriving DecidableEq, Repr

/-- A decode error: a value of the block, not a trap (R230), with its kind, field and observed value (R233). -/
structure DecodeError where
  kind : ErrorKind
  field : ErrorField
  value : ErrValue
  deriving DecidableEq, Repr

/-- The block's result: either a decoded instruction or a decode error, never both (R24). -/
inductive Result
  | ok (r : DecodedInstr)
  | error (e : DecodeError)
  deriving DecidableEq, Repr

/-- Why a list of bytes gives the host no instruction (the host's side of R51, R78 and R37). -/
inductive Reject
  /-- fewer than the four bytes of a word (R85) -/
  | truncated
  /-- the top-level bits match none of the five groups of R78 -/
  | notBranchClass
  /-- the block's own answer for the word (R230) -/
  | decodeError (e : DecodeError)
  deriving DecidableEq, Repr

/-- One constructor per row of spec/opcode_table.json; the arguments are the row's operand fields, as the formats R73
to R77 name them. Bits the block never reads (R72, R225) are no field of an instruction. -/
inductive Instr
  /-- `B.cond` (R140) -/
  | bCond (imm19 : BitVec 19) (cond : BitVec 4)
  /-- `BC.cond` (R141) -/
  | bcCond (imm19 : BitVec 19) (cond : BitVec 4)
  /-- `B` (R150) -/
  | b (imm26 : BitVec 26)
  /-- `BL` (R151) -/
  | bl (imm26 : BitVec 26)
  /-- `TBZ` (R160) -/
  | tbz (b5 : Bool) (b40 : BitVec 5) (imm14 : BitVec 14) (rt : RegIndex)
  /-- `TBNZ` (R161) -/
  | tbnz (b5 : Bool) (b40 : BitVec 5) (imm14 : BitVec 14) (rt : RegIndex)
  /-- `CBZ` (R170) -/
  | cbz (sf : Bool) (imm19 : BitVec 19) (rt : RegIndex)
  /-- `CBNZ` (R171) -/
  | cbnz (sf : Bool) (imm19 : BitVec 19) (rt : RegIndex)
  /-- `BR` (R186) -/
  | br (rn : RegIndex)
  /-- `BRAAZ` (R187) -/
  | braaz (rn : RegIndex)
  /-- `BRABZ` (R188) -/
  | brabz (rn : RegIndex)
  /-- `BRAA` (R189) -/
  | braa (rn op4 : RegIndex)
  /-- `BRAB` (R190) -/
  | brab (rn op4 : RegIndex)
  /-- `BLR` (R196) -/
  | blr (rn : RegIndex)
  /-- `BLRAAZ` (R198) -/
  | blraaz (rn : RegIndex)
  /-- `BLRAA` (R199) -/
  | blraa (rn op4 : RegIndex)
  /-- `BLRABZ` (R200) -/
  | blrabz (rn : RegIndex)
  /-- `BLRAB` (R201) -/
  | blrab (rn op4 : RegIndex)
  /-- `RET` (R207) -/
  | ret (rn : RegIndex)
  /-- `RETAA` (R208) -/
  | retaa
  /-- `RETAB` (R209) -/
  | retab
  /-- `ERET` (R216) -/
  | eret
  /-- `ERETAA` (R217) -/
  | eretaa
  /-- `ERETAB` (R218) -/
  | eretab
  /-- `DRPS` (R222) -/
  | drps
  deriving DecidableEq, Repr

/-- The group whose decoder gives the instruction (R70, R81, R82). -/
def Instr.group : Instr → EncGroup
  | .bCond _ _ => .cond
  | .bcCond _ _ => .cond
  | .b _ => .uncondImm
  | .bl _ => .uncondImm
  | .tbz _ _ _ _ => .test
  | .tbnz _ _ _ _ => .test
  | .cbz _ _ _ => .compare
  | .cbnz _ _ _ => .compare
  | .br _ => .regIndirect
  | .braaz _ => .regIndirect
  | .brabz _ => .regIndirect
  | .braa _ _ => .regIndirect
  | .brab _ _ => .regIndirect
  | .blr _ => .regIndirect
  | .blraaz _ => .regIndirect
  | .blraa _ _ => .regIndirect
  | .blrabz _ => .regIndirect
  | .blrab _ _ => .regIndirect
  | .ret _ => .regIndirect
  | .retaa => .regIndirect
  | .retab => .regIndirect
  | .eret => .regIndirect
  | .eretaa => .regIndirect
  | .eretab => .regIndirect
  | .drps => .regIndirect

end Sys2Proof
end

