-- ==== Sys2Proof/WellFormed.lean ====
section
/-! DEFINITION. Which instructions an encoding stands for, and which records the block may emit (R26). -/

namespace Sys2Proof

/-- Every value of every field is an instruction's, but for the modifier of `BLRAA` and `BLRAB`: "the modifier is never
`X(31)` here, since op4 = 31 selects BLRAAZ" (R199, R201). -/
def Instr.wellFormed : Instr → Bool
  | .bCond _ _ => true
  | .bcCond _ _ => true
  | .b _ => true
  | .bl _ => true
  | .tbz _ _ _ _ => true
  | .tbnz _ _ _ _ => true
  | .cbz _ _ _ => true
  | .cbnz _ _ _ => true
  | .br _ => true
  | .braaz _ => true
  | .brabz _ => true
  | .braa _ _ => true
  | .brab _ _ => true
  | .blr _ => true
  | .blraaz _ => true
  | .blraa _ op4 => op4 != 0b11111#5
  | .blrabz _ => true
  | .blrab _ op4 => op4 != 0b11111#5
  | .ret _ => true
  | .retaa => true
  | .retab => true
  | .eret => true
  | .eretaa => true
  | .eretab => true
  | .drps => true

/-- R26 (d): the slots are filled from slot 0 upwards with no gap. -/
def DecodedInstr.slotsPacked (r : DecodedInstr) : Bool :=
  (r.slot0 != .none || r.slot1 == .none) && (r.slot1 != .none || r.slot2 == .none)

/-- R26 (b), as far as a record alone shows it: only `B` and `BC` carry a condition, and `BC` always does. -/
def DecodedInstr.condAgrees (r : DecodedInstr) : Bool :=
  (r.cond.isNone || r.mnemonic == .b || r.mnemonic == .bc) && (r.mnemonic != .bc || r.cond.isSome)

/-- The record invariants of R26; (a) and (c) hold by the types `Operand` and `RegId`. -/
def DecodedInstr.wellFormed (r : DecodedInstr) : Bool :=
  r.slotsPacked && r.condAgrees

end Sys2Proof
end

