-- ==== Sys2Proof/Decode.lean ====
section
/-! DEFINITION. The five decoders as total functions from a word to an instruction or a named decode error (R144, R154,
R165, R175, R184 and the families R185, R195, R205, R215, R222), routed by the group (R71). AFTER them the host's
dispatcher (R78, outside the block), and the encoder, written from the formats R73 to R77 and the opcode map R82. -/

namespace Sys2Proof

/-! ### The group select (R22) -/

/-- R22: the group a `grp` code names; the codes 5, 6 and 7 name none. -/
def EncGroup.ofCode (c : GrpCode) : Option EncGroup :=
  match c.toNat with
  | 0 => some .cond
  | 1 => some .uncondImm
  | 2 => some .test
  | 3 => some .compare
  | 4 => some .regIndirect
  | _ => none

/-- R22: the `grp` code of a group. -/
def EncGroup.code : EncGroup → GrpCode
  | .cond => 0
  | .uncondImm => 1
  | .test => 2
  | .compare => 3
  | .regIndirect => 4

/-! ### The four immediate groups -/

/-- R143: the error of a set `o1` bit. -/
def errO1 : DecodeError := ⟨.reservedBitViolation, .o1, 1⟩

/-- R144. -/
def decodeCond (w : Word) : Except DecodeError Instr :=
  if testBit w 24 then .error errO1
  else if testBit w 4 then .ok (.bcCond (extract w 5 19) (extract w 0 4))
  else .ok (.bCond (extract w 5 19) (extract w 0 4))

/-- R154; this decoder has no check (R153). -/
def decodeUncondImm (w : Word) : Except DecodeError Instr :=
  if testBit w 31 then .ok (.bl (extract w 0 26)) else .ok (.b (extract w 0 26))

/-- R165; this decoder has no check (R164). -/
def decodeTest (w : Word) : Except DecodeError Instr :=
  if testBit w 24 then .ok (.tbnz (testBit w 31) (extract w 19 5) (extract w 5 14) (extract w 0 5))
  else .ok (.tbz (testBit w 31) (extract w 19 5) (extract w 5 14) (extract w 0 5))

/-- R175; this decoder has no check (R174). -/
def decodeCompare (w : Word) : Except DecodeError Instr :=
  if testBit w 24 then .ok (.cbnz (testBit w 31) (extract w 5 19) (extract w 0 5))
  else .ok (.cbz (testBit w 31) (extract w 5 19) (extract w 0 5))

/-! ### The register-indirect group -/

/-- A field required to hold a constant holds something else (R231, R232). -/
def malformed {n : Nat} (f : ErrorField) (v : BitVec n) : DecodeError :=
  ⟨.malformedFixedField, f, v.setWidth 16⟩

/-- A field value or a combination the specification does not assign (R231, R232). -/
def unallocated {n : Nat} (f : ErrorField) (v : BitVec n) : DecodeError :=
  ⟨.unallocatedEncoding, f, v.setWidth 16⟩

/-- R191, R233: `(opc << 11) | (op3 << 5) | op4`. -/
def packOpcOp3Op4 (opc : BitVec 4) (op3 : BitVec 6) (op4 : BitVec 5) : ErrValue :=
  (opc.setWidth 16 <<< 11) ||| (op3.setWidth 16 <<< 5) ||| op4.setWidth 16

/-- R219, R233: `(op3 << 10) | (rn << 5) | op4`. -/
def packOp3RnOp4 (op3 : BitVec 6) (rn op4 : BitVec 5) : ErrValue :=
  (op3.setWidth 16 <<< 10) ||| (rn.setWidth 16 <<< 5) ||| op4.setWidth 16

/-- R185, with the error of R191. -/
def brFamily (opc : BitVec 4) (op3 : BitVec 6) (rn op4 : BitVec 5) : Except DecodeError Instr :=
  if opc = 0b0000#4 ∧ op3 = 0b000000#6 ∧ op4 = 0b00000#5 then .ok (.br rn)
  else if opc = 0b0000#4 ∧ op3 = 0b000010#6 ∧ op4 = 0b11111#5 then .ok (.braaz rn)
  else if opc = 0b0000#4 ∧ op3 = 0b000011#6 ∧ op4 = 0b11111#5 then .ok (.brabz rn)
  else if opc = 0b1000#4 ∧ op3 = 0b000010#6 then .ok (.braa rn op4)
  else if opc = 0b1000#4 ∧ op3 = 0b000011#6 then .ok (.brab rn op4)
  else .error (unallocated .opcOp3Op4 (packOpcOp3Op4 opc op3 op4))

/-- R195, with the errors of R197 and R202; opc bit 3 is not consulted (92 D13). -/
def blFamily (op3 : BitVec 6) (rn op4 : BitVec 5) : Except DecodeError Instr :=
  if op3 = 0b000000#6 then
    if op4 ≠ 0b00000#5 then .error (malformed .op4 op4) else .ok (.blr rn)
  else if op3 = 0b000010#6 then
    if op4 = 0b11111#5 then .ok (.blraaz rn) else .ok (.blraa rn op4)
  else if op3 = 0b000011#6 then
    if op4 = 0b11111#5 then .ok (.blrabz rn) else .ok (.blrab rn op4)
  else .error (unallocated .op3 op3)

/-- R205, with the errors of R206, R210 (rn before op4) and R211. -/
def retFamily (op3 : BitVec 6) (rn op4 : BitVec 5) : Except DecodeError Instr :=
  if op3 = 0b000000#6 then
    if op4 ≠ 0b00000#5 then .error (malformed .op4 op4) else .ok (.ret rn)
  else if op3 = 0b000010#6 ∨ op3 = 0b000011#6 then
    if rn ≠ 0b11111#5 then .error (malformed .rn rn)
    else if op4 ≠ 0b11111#5 then .error (malformed .op4 op4)
    else if op3 = 0b000010#6 then .ok .retaa
    else .ok .retab
  else .error (unallocated .op3 op3)

/-- R215, with the error of R219; its own check of op2 never fails, since R181 comes first. -/
def eretFamily (op2 : BitVec 5) (op3 : BitVec 6) (rn op4 : BitVec 5) : Except DecodeError Instr :=
  if op2 ≠ 0b11111#5 then .error (malformed .op2 op2)
  else if op3 = 0b000000#6 ∧ op4 = 0b00000#5 ∧ rn = 0b11111#5 then .ok .eret
  else if op3 = 0b000010#6 ∧ op4 = 0b11111#5 ∧ rn = 0b11111#5 then .ok .eretaa
  else if op3 = 0b000011#6 ∧ op4 = 0b11111#5 ∧ rn = 0b11111#5 then .ok .eretab
  else .error (unallocated .op3RnOp4 (packOp3RnOp4 op3 rn op4))

/-- R222: no further field check. -/
def drpsFamily : Except DecodeError Instr := .ok .drps

/-- R182, R184: the family an opc value selects, or the error of R183. -/
def selectFamily (opc : BitVec 4) (op2 : BitVec 5) (op3 : BitVec 6) (rn op4 : BitVec 5) :
    Except DecodeError Instr :=
  if opc = 0b0000#4 ∨ opc = 0b1000#4 then brFamily opc op3 rn op4
  else if opc = 0b0001#4 ∨ opc = 0b1001#4 then blFamily op3 rn op4
  else if opc = 0b0010#4 then retFamily op3 rn op4
  else if opc = 0b0100#4 then eretFamily op2 op3 rn op4
  else if opc = 0b0101#4 then drpsFamily
  else .error (unallocated .opc opc)

/-- R180, R181, R184: the op2 check comes before any fan-out. -/
def decodeRegIndirect (w : Word) : Except DecodeError Instr :=
  if extract w 16 5 ≠ 0b11111#5 then .error (malformed .op2 (extract w 16 5))
  else selectFamily (extract w 21 4) (extract w 16 5) (extract w 10 6) (extract w 5 5) (extract w 0 5)

/-- R71: exactly one decoder is evaluated, the one the group selects. -/
def decodeInstr : EncGroup → Word → Except DecodeError Instr
  | .cond, w => decodeCond w
  | .uncondImm, w => decodeUncondImm w
  | .test, w => decodeTest w
  | .compare, w => decodeCompare w
  | .regIndirect, w => decodeRegIndirect w

/-! ### The host's dispatcher and the host's bytes (outside the block: R7, R51, R78) -/

/-- R78 [from general knowledge, informative]: the group whose top-level bits a word has. The block never reads them;
this is the dispatcher that builds `grp` (log entry 2). -/
def routeGroup (w : Word) : Option EncGroup :=
  if extract w 25 7 = 0b0101010#7 then some .cond
  else if extract w 26 5 = 0b00101#5 then some .uncondImm
  else if extract w 25 6 = 0b011011#6 then some .test
  else if extract w 25 6 = 0b011010#6 then some .compare
  else if extract w 25 7 = 0b1101011#7 then some .regIndirect
  else none

/-- R51 [from general knowledge, informative]: the caller assembles a word from four bytes, lowest address first and
least significant (log entry 3). -/
def wordOfBytes (b0 b1 b2 b3 : BitVec 8) : Word :=
  b3 ++ b2 ++ b1 ++ b0

/-- R51: the four bytes of a word, lowest address first. -/
def bytesOfWord (w : Word) : List (BitVec 8) :=
  [w.extractLsb' 0 8, w.extractLsb' 8 8, w.extractLsb' 16 8, w.extractLsb' 24 8]

/-- The dispatcher and the block together: the instruction of a routed word. -/
def decodeRouted (w : Word) : Except Reject Instr :=
  match routeGroup w with
  | none => .error .notBranchClass
  | some g =>
    match decodeInstr g w with
    | .ok i => .ok i
    | .error e => .error (.decodeError e)

/-- The first instruction of a list of bytes and the bytes after it; total, rejecting by name. -/
def decodeBytes : List (BitVec 8) → Except Reject (Instr × List (BitVec 8))
  | b0 :: b1 :: b2 :: b3 :: rest =>
    match decodeRouted (wordOfBytes b0 b1 b2 b3) with
    | .ok i => .ok (i, rest)
    | .error r => .error r
  | _ => .error .truncated

/-- The word whose bits, numbered as spec/opcode_table.json numbers them, are `w`: the low `nbits` bits, the bits above
them 0 (R14, R85). -/
def tableWord (nbits w : Nat) : Word :=
  BitVec.ofNat 32 (w % 2 ^ nbits)

/-- The instruction the decoder reads from an instruction whose bits are `w`, laid out as bytes and read back. -/
def decodeTableWord (nbits w : Nat) : Option Instr :=
  match decodeBytes (bytesOfWord (tableWord nbits w)) with
  | .ok (i, _) => some i
  | .error _ => none

/-! ### The encoder -/

/-- R73 with the group bits of R78. -/
def encodeCond (imm19 : BitVec 19) (o0 : BitVec 1) (cond : BitVec 4) : Word :=
  0b0101010#7 ++ 0b0#1 ++ imm19 ++ o0 ++ cond

/-- R74 with the group bits of R78. -/
def encodeUncondImm (op : BitVec 1) (imm26 : BitVec 26) : Word :=
  op ++ 0b00101#5 ++ imm26

/-- R75 with the group bits of R78. -/
def encodeTest (b5 : Bool) (op : BitVec 1) (b40 : BitVec 5) (imm14 : BitVec 14) (rt : BitVec 5) : Word :=
  BitVec.ofBool b5 ++ 0b011011#6 ++ op ++ b40 ++ imm14 ++ rt

/-- R76 with the group bits of R78. -/
def encodeCompare (sf : Bool) (op : BitVec 1) (imm19 : BitVec 19) (rt : BitVec 5) : Word :=
  BitVec.ofBool sf ++ 0b011010#6 ++ op ++ imm19 ++ rt

/-- R77 with the group bits of R78 and op2 = 11111 (R181). -/
def encodeRegIndirect (opc : BitVec 4) (op3 : BitVec 6) (rn op4 : BitVec 5) : Word :=
  0b1101011#7 ++ opc ++ 0b11111#5 ++ op3 ++ rn ++ op4

/-- The word of an instruction. Bits the block does not read are those of the rule's own example word: bit 24 of the BL
family, and op3, rn and op4 of `DRPS` (R196 to R201, R222; log entry 4). -/
def encode : Instr → Word
  | .bCond imm19 cond => encodeCond imm19 0b0#1 cond
  | .bcCond imm19 cond => encodeCond imm19 0b1#1 cond
  | .b imm26 => encodeUncondImm 0b0#1 imm26
  | .bl imm26 => encodeUncondImm 0b1#1 imm26
  | .tbz b5 b40 imm14 rt => encodeTest b5 0b0#1 b40 imm14 rt
  | .tbnz b5 b40 imm14 rt => encodeTest b5 0b1#1 b40 imm14 rt
  | .cbz sf imm19 rt => encodeCompare sf 0b0#1 imm19 rt
  | .cbnz sf imm19 rt => encodeCompare sf 0b1#1 imm19 rt
  | .br rn => encodeRegIndirect 0b0000#4 0b000000#6 rn 0b00000#5
  | .braaz rn => encodeRegIndirect 0b0000#4 0b000010#6 rn 0b11111#5
  | .brabz rn => encodeRegIndirect 0b0000#4 0b000011#6 rn 0b11111#5
  | .braa rn op4 => encodeRegIndirect 0b1000#4 0b000010#6 rn op4
  | .brab rn op4 => encodeRegIndirect 0b1000#4 0b000011#6 rn op4
  | .blr rn => encodeRegIndirect 0b0001#4 0b000000#6 rn 0b00000#5
  | .blraaz rn => encodeRegIndirect 0b0001#4 0b000010#6 rn 0b11111#5
  | .blraa rn op4 => encodeRegIndirect 0b1001#4 0b000010#6 rn op4
  | .blrabz rn => encodeRegIndirect 0b0001#4 0b000011#6 rn 0b11111#5
  | .blrab rn op4 => encodeRegIndirect 0b1001#4 0b000011#6 rn op4
  | .ret rn => encodeRegIndirect 0b0010#4 0b000000#6 rn 0b00000#5
  | .retaa => encodeRegIndirect 0b0010#4 0b000010#6 0b11111#5 0b11111#5
  | .retab => encodeRegIndirect 0b0010#4 0b000011#6 0b11111#5 0b11111#5
  | .eret => encodeRegIndirect 0b0100#4 0b000000#6 0b11111#5 0b00000#5
  | .eretaa => encodeRegIndirect 0b0100#4 0b000010#6 0b11111#5 0b11111#5
  | .eretab => encodeRegIndirect 0b0100#4 0b000011#6 0b11111#5 0b11111#5
  | .drps => encodeRegIndirect 0b0101#4 0b000000#6 0b11111#5 0b00000#5

/-- R127: the N-bit field of a displacement, `(d / 4) mod 2^N`. R127 gives this for the valid displacements only, the
multiples of 4 in `[-2^(N+1), 2^(N+1) - 4]`; any other `d` "has no encoding". DESIGN CHOICE (log entry 16): for such a `d`
the same expression stands, unrefused, with the division rounded down. Its field then decodes to another displacement;
`Obligations.DisplacementRoundTrip` states that no field decodes to `d`. -/
def dispField (n : Nat) (d : Int) : BitVec n :=
  BitVec.ofInt n (d / 4)

end Sys2Proof
end

