-- ==== Sys2Proof/Machine/Flags.lean ====
section
/-! DEFINITION. "The block reads no processor flag and writes none" (R33), so there is no flag computation. What stands in
the place of one is the condition code, passed through unchanged and never evaluated (R32). -/

namespace Sys2Proof.Machine

/-- R32: the condition code of a COND-group word, attached as it is; all 16 values are accepted. -/
def condAttached (cond : BitVec 4) : Option (BitVec 4) := some cond

/-- R26 (b): no other group attaches a condition code. -/
def condAbsent : Option (BitVec 4) := none

end Sys2Proof.Machine
end

