-- ==== Sys2Proof/Machine/Operands.lean ====
section
/-! DEFINITION. The operand forms: register identifiers (R17, R27, R80), the tested-bit index (R162), and the displacement
of each immediate group, assembled with the primitive and at the width R79 and R128 give. -/

namespace Sys2Proof.Machine

/-- `W(n)` (R17, R27). -/
def regW (n : RegIndex) : RegId := ⟨false, n⟩

/-- `X(n)` (R17, R27). -/
def regX (n : RegIndex) : RegId := ⟨true, n⟩

/-- The register class a width bit selects: 1 = X, 0 = W (R80, R162, R172). -/
def regByWidth (is64 : Bool) (n : RegIndex) : RegId :=
  if is64 then regX n else regW n

/-- R162: "if `b5` is set, OR `32` into the 5-bit value", zero-extended to a 64-bit immediate (R126). -/
def bitIndex (b5 : Bool) (b40 : BitVec 5) : Imm :=
  ((if b5 then 32#6 else 0#6) ||| b40.setWidth 6).setWidth 64

/-- R142: `sign_extend(imm19 ++ 0b00, 21, 64)`. -/
def dispCond (imm19 : BitVec 19) : Imm :=
  signExtend (imm19 ++ 0b00#2) 21 64

/-- R152: `sign_extend(imm26 ++ 0b00, 28, 64)`. -/
def dispUncondImm (imm26 : BitVec 26) : Imm :=
  signExtend (imm26 ++ 0b00#2) 28 64

/-- R163: `corrected_sign(imm14, 14) * 4`. -/
def dispTest (imm14 : BitVec 14) : Imm :=
  correctedSign imm14 14 * 4

/-- R173: `corrected_sign(imm19, 19) * 4`. -/
def dispCompare (imm19 : BitVec 19) : Imm :=
  correctedSign imm19 19 * 4

end Sys2Proof.Machine
end

