-- ==== Sys2Proof/Machine/Ports.lean ====
section
/-! DEFINITION. The port codes (R22, R25, R27, R28, R29, R231, R233), the output ports of a result with every don't-care
port at zero (R24, R30), and the host's reading of the ports back (R37). -/

namespace Sys2Proof

/-- R25. -/
def Mnemonic.code : Mnemonic → MnemCode
  | .b => 0
  | .bl => 1
  | .bc => 2
  | .tbz => 3
  | .tbnz => 4
  | .cbz => 5
  | .cbnz => 6
  | .br => 7
  | .braa => 8
  | .brab => 9
  | .braaz => 10
  | .brabz => 11
  | .blr => 12
  | .blraa => 13
  | .blrab => 14
  | .blraaz => 15
  | .blrabz => 16
  | .ret => 17
  | .retaa => 18
  | .retab => 19
  | .eret => 20
  | .eretaa => 21
  | .eretab => 22
  | .drps => 23

/-- The 24 mnemonics in the order of their codes (R3, R25). -/
def Mnemonic.all : List Mnemonic :=
  [.b, .bl, .bc, .tbz, .tbnz, .cbz, .cbnz, .br, .braa, .brab, .braaz, .brabz,
   .blr, .blraa, .blrab, .blraaz, .blrabz, .ret, .retaa, .retab, .eret, .eretaa, .eretab, .drps]

/-- R25 read back; the codes 24 to 31 name nothing. -/
def Mnemonic.ofCode (c : MnemCode) : Option Mnemonic :=
  Mnemonic.all[c.toNat]?

/-- R29. -/
def Category.code : Category → BitVec 2
  | .branch => 0
  | .conditionalBranch => 1
  | .ret => 2
  | .unspecified => 3

/-- R29 read back. -/
def Category.ofCode (c : BitVec 2) : Category :=
  match c.toNat with
  | 0 => .branch
  | 1 => .conditionalBranch
  | 2 => .ret
  | _ => .unspecified

/-- R231. -/
def ErrorKind.code : ErrorKind → BitVec 2
  | .reservedBitViolation => 1
  | .unallocatedEncoding => 2
  | .malformedFixedField => 3

/-- R231 read back; the code 0 means no error. -/
def ErrorKind.ofCode (c : BitVec 2) : Option ErrorKind :=
  match c.toNat with
  | 1 => some .reservedBitViolation
  | 2 => some .unallocatedEncoding
  | 3 => some .malformedFixedField
  | _ => none

/-- R233. -/
def ErrorField.code : ErrorField → BitVec 4
  | .o1 => 1
  | .op2 => 2
  | .opc => 3
  | .op3 => 4
  | .rn => 5
  | .op4 => 6
  | .opcOp3Op4 => 7
  | .op3RnOp4 => 8

/-- R233 read back; the code 0 is used only when there is no error, and 9 to 15 name nothing. -/
def ErrorField.ofCode (c : BitVec 4) : Option ErrorField :=
  match c.toNat with
  | 1 => some .o1
  | 2 => some .op2
  | 3 => some .opc
  | 4 => some .op3
  | 5 => some .rn
  | 6 => some .op4
  | 7 => some .opcOp3Op4
  | 8 => some .op3RnOp4
  | _ => none

/-- R27: `is64 ++ index`. -/
def RegId.code (r : RegId) : RegCode :=
  BitVec.ofBool r.is64 ++ r.index

/-- R27 read back. -/
def RegId.ofCode (c : RegCode) : RegId :=
  ⟨c.getLsbD 5, c.setWidth 5⟩

/-- The three ports of an operand slot (R28, R30). -/
def Operand.ports : Operand → SlotPorts
  | .none => ⟨0, 0, 0⟩
  | .reg r => ⟨1, r.code, 0⟩
  | .imm v => ⟨2, 0, v⟩
  | .pcrel d => ⟨3, 0, d⟩

/-- An operand slot read back from its ports (R28). -/
def Operand.ofPorts (p : SlotPorts) : Operand :=
  match p.kind.toNat with
  | 0 => .none
  | 1 => .reg (RegId.ofCode p.reg)
  | 2 => .imm p.imm
  | _ => .pcrel p.imm

/-- Every output port at zero. -/
def OutPorts.zero : OutPorts :=
  ⟨false, 0, false, 0, ⟨0, 0, 0⟩, ⟨0, 0, 0⟩, ⟨0, 0, 0⟩, 0, 0, 0, 0⟩

/-- The ports of a decoded instruction: `ok` = 1, the error outputs 0 (R24, R30). -/
def OutPorts.ofInstr (r : DecodedInstr) : OutPorts :=
  { OutPorts.zero with
    ok := true
    mnem := r.mnemonic.code
    hasCond := r.cond.isSome
    cond := r.cond.getD 0
    slot0 := r.slot0.ports
    slot1 := r.slot1.ports
    slot2 := r.slot2.ports
    category := r.category.code }

/-- The ports of a decode error: `ok` = 0, the instruction outputs 0 (R24, R30, R31). -/
def OutPorts.ofError (e : DecodeError) : OutPorts :=
  { OutPorts.zero with
    errKind := e.kind.code
    errField := e.field.code
    errValue := e.value }

/-- The output ports of a result (R24). -/
def OutPorts.ofResult : Result → OutPorts
  | .ok r => OutPorts.ofInstr r
  | .error e => OutPorts.ofError e

/-- The host's reading of the output ports (R37, step 3); ports no result has (an unused code) read as none. -/
def OutPorts.toResult (p : OutPorts) : Option Result :=
  if p.ok then
    match Mnemonic.ofCode p.mnem with
    | some m =>
      some (.ok
        { mnemonic := m
          cond := if p.hasCond then some p.cond else none
          slot0 := Operand.ofPorts p.slot0
          slot1 := Operand.ofPorts p.slot1
          slot2 := Operand.ofPorts p.slot2
          category := Category.ofCode p.category })
    | none => none
  else
    match ErrorKind.ofCode p.errKind, ErrorField.ofCode p.errField with
    | some k, some f => some (.error ⟨k, f, p.errValue⟩)
    | _, _ => none

end Sys2Proof
end

