-- ==== Sys2Proof/Machine/State.lean ====
section
/-! DEFINITION. The state of the model. The block has no storage (R20): what State holds is what stands on the block's
ports, the two inputs of R21 and the outputs of R24. Fault and Refusal are the reasons a step can stop. -/

namespace Sys2Proof.Machine

/-- The ports of the block (R21, R24). Nothing else exists: no register, program counter, flag, control or status
register, memory or hidden state (R20, R33, R34, R36, R50). -/
structure State where
  /-- The input `grp` (R21, R22): the group select the host presents. All eight codes can stand on the port. -/
  grp : GrpCode
  /-- The input `word` (R21): the instruction word the host presents. -/
  word : Word
  /-- The output ports (R24), as the host reads them once the inputs have been stable for `T_PD` (R265). -/
  out : OutPorts
  deriving DecidableEq, Repr

/-- The block has no trap, interrupt or stuck state (R238, R239), and a decode error is an output value (R230), so there
is no reason for a fault: no step faults. -/
inductive Fault
  deriving DecidableEq, Repr

/-- Why the model has no transition. -/
inductive Refusal
  /-- Raised by exec's arm of an instruction that has no meaning yet. Safe: the model stops. No arm raises it. -/
  | notModelled (mnemonic : String)
  /-- Raised by step when `grp` is 5, 6 or 7: "the block defines no output for them, and a model refuses such an input"
  (R22, R245). Safe: the model stops where the spec gives no output. -/
  | grpOutsideContract (grp : GrpCode)
  /-- Raised by the utilities' checked forms for an argument outside their contract (R120, R121, R245). Safe; no step
  raises it, since no call site passes such an argument (R128). -/
  | utilityArgument
  deriving DecidableEq, Repr

/-- The block has no reset (R260): "Its outputs are the rules' function of its inputs ... from the first moment after
power-up". The inputs are the host's, and the spec states no value of them at power-up: both are 0 here (DESIGN CHOICE,
log entry 1), and the outputs are what R144 gives for them: `B`, condition 0, displacement 0. -/
def State.reset : State :=
  { grp := 0
    word := 0
    out :=
      { OutPorts.zero with
        ok := true
        hasCond := true
        slot0 := ⟨3, 0, 0⟩
        category := 1 } }

end Sys2Proof.Machine
end

