-- ==== Sys2Proof/Machine/Ops.lean ====
section
/-! DEFINITION. The operations on the ports that every meaning goes through: reading and presenting the inputs, driving
the outputs with an instruction (R24) or with a decode error (R230, R239), and the utilities' forms that refuse an
argument outside their contract (R120, R121, R245). -/

namespace Sys2Proof.Machine

/-- R37, step 1: the host presents a word and a group code. It changes the inputs only. -/
def State.present (s : State) (grp : GrpCode) (word : Word) : State :=
  { s with grp := grp, word := word }

/-- The block's outputs take a value; it changes the outputs only. -/
def State.drive (s : State) (r : Result) : State :=
  { s with out := OutPorts.ofResult r }

/-- R16: `return Ok(rec)` ends a decode with the record, which stands on the output ports. -/
def emit (r : DecodedInstr) (s : State) : Host.Outcome State Fault Refusal :=
  .next (s.drive (.ok r))

/-- R16: `raise DecodeError(kind, field, value)`. It is the block's one failure outcome, and it is no trap: it "saves no
state, changes no mode, masks nothing and transfers control nowhere. It is the block's output" (R239, R230). There is no
trap entry and no return from one (R240). -/
def raiseDecodeError (e : DecodeError) (s : State) : Host.Outcome State Fault Refusal :=
  .next (s.drive (.error e))

/-- R120 with its contract: `1 <= width` and `low_bit + width <= 32`, anything else refused. -/
def extractChecked (w : Word) (lowBit width : Nat) : Except Refusal (BitVec width) :=
  if 1 ≤ width ∧ lowBit + width ≤ 32 then .ok (extract w lowBit width) else .error .utilityArgument

/-- R121 with its contract: `n <= 31`, anything else refused. -/
def testBitChecked (w : Word) (n : Nat) : Except Refusal Bool :=
  if n ≤ 31 then .ok (testBit w n) else .error .utilityArgument

end Sys2Proof.Machine
end

