-- ==== Sys2Proof/Machine/RegIndirectRecords.lean ====
section
/-! DEFINITION. The three record shapes of the register-indirect group (R80: every register operand is an `X` identifier; R81: categories). -/

namespace Sys2Proof.Machine

/-- One operand, the target register (R186, R187, R188, R196, R198, R200); category Branch (92 D14). -/
def recordTarget (m : Mnemonic) (rn : RegIndex) : DecodedInstr :=
  ⟨m, condAbsent, .reg (regX rn), .none, .none, .branch⟩

/-- Two operands, the target and the modifier register (R189, R190, R199, R201); category Branch (92 D14). -/
def recordTargetModifier (m : Mnemonic) (rn op4 : RegIndex) : DecodedInstr :=
  ⟨m, condAbsent, .reg (regX rn), .reg (regX op4), .none, .branch⟩

/-- No operand (R208, R209, R216, R217, R218, R222). -/
def recordNoOperand (m : Mnemonic) (c : Category) : DecodedInstr :=
  ⟨m, condAbsent, .none, .none, .none, c⟩

end Sys2Proof.Machine
end

