-- ==== Sys2Proof/Machine/BlFamily.lean ====
section
/-! DEFINITION. The BL family (45_register_indirect.md R195 to R202). No link register is named or written (R196). -/

namespace Sys2Proof.Machine

/-- R196. -/
def recBlr (rn : RegIndex) : DecodedInstr :=
  recordTarget .blr rn

/-- R196: the record of `recBlr` stands on the output ports. -/
def execBlr (rn : RegIndex) (s : State) : Host.Outcome State Fault Refusal :=
  emit (recBlr rn) s

/-- R198. -/
def recBlraaz (rn : RegIndex) : DecodedInstr :=
  recordTarget .blraaz rn

/-- R198: the record of `recBlraaz` stands on the output ports. -/
def execBlraaz (rn : RegIndex) (s : State) : Host.Outcome State Fault Refusal :=
  emit (recBlraaz rn) s

/-- R199. -/
def recBlraa (rn op4 : RegIndex) : DecodedInstr :=
  recordTargetModifier .blraa rn op4

/-- R199: the record of `recBlraa` stands on the output ports. -/
def execBlraa (rn op4 : RegIndex) (s : State) : Host.Outcome State Fault Refusal :=
  emit (recBlraa rn op4) s

/-- R200. -/
def recBlrabz (rn : RegIndex) : DecodedInstr :=
  recordTarget .blrabz rn

/-- R200: the record of `recBlrabz` stands on the output ports. -/
def execBlrabz (rn : RegIndex) (s : State) : Host.Outcome State Fault Refusal :=
  emit (recBlrabz rn) s

/-- R201. -/
def recBlrab (rn op4 : RegIndex) : DecodedInstr :=
  recordTargetModifier .blrab rn op4

/-- R201: the record of `recBlrab` stands on the output ports. -/
def execBlrab (rn op4 : RegIndex) (s : State) : Host.Outcome State Fault Refusal :=
  emit (recBlrab rn op4) s

end Sys2Proof.Machine
end

