-- ==== Sys2Proof/Machine/BrFamily.lean ====
section
/-! DEFINITION. The BR family (45_register_indirect.md R185 to R191): a branch is named, no register is read, no pointer authenticated (R8). -/

namespace Sys2Proof.Machine

/-- R186. -/
def recBr (rn : RegIndex) : DecodedInstr :=
  recordTarget .br rn

/-- R186: the record of `recBr` stands on the output ports. -/
def execBr (rn : RegIndex) (s : State) : Host.Outcome State Fault Refusal :=
  emit (recBr rn) s

/-- R187. -/
def recBraaz (rn : RegIndex) : DecodedInstr :=
  recordTarget .braaz rn

/-- R187: the record of `recBraaz` stands on the output ports. -/
def execBraaz (rn : RegIndex) (s : State) : Host.Outcome State Fault Refusal :=
  emit (recBraaz rn) s

/-- R188. -/
def recBrabz (rn : RegIndex) : DecodedInstr :=
  recordTarget .brabz rn

/-- R188: the record of `recBrabz` stands on the output ports. -/
def execBrabz (rn : RegIndex) (s : State) : Host.Outcome State Fault Refusal :=
  emit (recBrabz rn) s

/-- R189. -/
def recBraa (rn op4 : RegIndex) : DecodedInstr :=
  recordTargetModifier .braa rn op4

/-- R189: the record of `recBraa` stands on the output ports. -/
def execBraa (rn op4 : RegIndex) (s : State) : Host.Outcome State Fault Refusal :=
  emit (recBraa rn op4) s

/-- R190. -/
def recBrab (rn op4 : RegIndex) : DecodedInstr :=
  recordTargetModifier .brab rn op4

/-- R190: the record of `recBrab` stands on the output ports. -/
def execBrab (rn op4 : RegIndex) (s : State) : Host.Outcome State Fault Refusal :=
  emit (recBrab rn op4) s

end Sys2Proof.Machine
end

