-- ==== Sys2Proof/Machine/CompareBranch.lean ====
section
/-! DEFINITION. Group COMPARE: `CBZ` and `CBNZ` (44_compare_and_branch.md R170 to R175). No register is read and no comparison is made (R170). -/

namespace Sys2Proof.Machine

/-- R170, R171, R175: tested register, displacement; category ConditionalBranch. -/
def recordCompare (m : Mnemonic) (sf : Bool) (imm19 : BitVec 19) (rt : RegIndex) : DecodedInstr :=
  ⟨m, condAbsent, .reg (regByWidth sf rt), .pcrel (dispCompare imm19), .none, .conditionalBranch⟩

/-- R170. -/
def recCbz (sf : Bool) (imm19 : BitVec 19) (rt : RegIndex) : DecodedInstr :=
  recordCompare .cbz sf imm19 rt

/-- R170: the record of `recCbz` stands on the output ports. -/
def execCbz (sf : Bool) (imm19 : BitVec 19) (rt : RegIndex) (s : State) : Host.Outcome State Fault Refusal :=
  emit (recCbz sf imm19 rt) s

/-- R171. -/
def recCbnz (sf : Bool) (imm19 : BitVec 19) (rt : RegIndex) : DecodedInstr :=
  recordCompare .cbnz sf imm19 rt

/-- R171: the record of `recCbnz` stands on the output ports. -/
def execCbnz (sf : Bool) (imm19 : BitVec 19) (rt : RegIndex) (s : State) : Host.Outcome State Fault Refusal :=
  emit (recCbnz sf imm19 rt) s

end Sys2Proof.Machine
end

