-- ==== Sys2Proof/Machine/CondBranch.lean ====
section
/-! DEFINITION. Group COND: `B.cond` and `BC.cond` (41_conditional_branch.md R140 to R144). -/

namespace Sys2Proof.Machine

/-- R140, R141, R142: the condition attached, one PCREL operand, category ConditionalBranch. -/
def recordCond (m : Mnemonic) (imm19 : BitVec 19) (cond : BitVec 4) : DecodedInstr :=
  ⟨m, condAttached cond, .pcrel (dispCond imm19), .none, .none, .conditionalBranch⟩

/-- R140. -/
def recBCond (imm19 : BitVec 19) (cond : BitVec 4) : DecodedInstr :=
  recordCond .b imm19 cond

/-- R140: the record of `recBCond` stands on the output ports. -/
def execBCond (imm19 : BitVec 19) (cond : BitVec 4) (s : State) : Host.Outcome State Fault Refusal :=
  emit (recBCond imm19 cond) s

/-- R141. -/
def recBcCond (imm19 : BitVec 19) (cond : BitVec 4) : DecodedInstr :=
  recordCond .bc imm19 cond

/-- R141: the record of `recBcCond` stands on the output ports. -/
def execBcCond (imm19 : BitVec 19) (cond : BitVec 4) (s : State) : Host.Outcome State Fault Refusal :=
  emit (recBcCond imm19 cond) s

end Sys2Proof.Machine
end

