-- ==== Sys2Proof/Machine/DrpsFamily.lean ====
section
/-! DEFINITION. The DRPS family (45_register_indirect.md R222): decoded in any mode (R241, R244). -/

namespace Sys2Proof.Machine

/-- R222. -/
def recDrps : DecodedInstr :=
  recordNoOperand .drps .unspecified

/-- R222: the record of `recDrps` stands on the output ports. -/
def execDrps (s : State) : Host.Outcome State Fault Refusal :=
  emit recDrps s

end Sys2Proof.Machine
end

