-- ==== Sys2Proof/Machine/EretFamily.lean ====
section
/-! DEFINITION. The ERET family (45_register_indirect.md R215 to R219): decoded at any privilege, and nothing is restored (R216, R240, R241). -/

namespace Sys2Proof.Machine

/-- R216. -/
def recEret : DecodedInstr :=
  recordNoOperand .eret .ret

/-- R216: the record of `recEret` stands on the output ports. -/
def execEret (s : State) : Host.Outcome State Fault Refusal :=
  emit recEret s

/-- R217. -/
def recEretaa : DecodedInstr :=
  recordNoOperand .eretaa .ret

/-- R217: the record of `recEretaa` stands on the output ports. -/
def execEretaa (s : State) : Host.Outcome State Fault Refusal :=
  emit recEretaa s

/-- R218. -/
def recEretab : DecodedInstr :=
  recordNoOperand .eretab .ret

/-- R218: the record of `recEretab` stands on the output ports. -/
def execEretab (s : State) : Host.Outcome State Fault Refusal :=
  emit recEretab s

end Sys2Proof.Machine
end

