-- ==== Sys2Proof/Machine/RetFamily.lean ====
section
/-! DEFINITION. The RET family (45_register_indirect.md R205 to R211). -/

namespace Sys2Proof.Machine

/-- R207, R87: no operand when rn names the default link register, register 30; category Return (92 D14). -/
def recRet (rn : RegIndex) : DecodedInstr :=
  if rn = 30#5 then recordNoOperand .ret .ret
  else ⟨.ret, condAbsent, .reg (regX rn), .none, .none, .ret⟩

/-- R207: the record of `recRet` stands on the output ports. -/
def execRet (rn : RegIndex) (s : State) : Host.Outcome State Fault Refusal :=
  emit (recRet rn) s

/-- R208. -/
def recRetaa : DecodedInstr :=
  recordNoOperand .retaa .ret

/-- R208: the record of `recRetaa` stands on the output ports. -/
def execRetaa (s : State) : Host.Outcome State Fault Refusal :=
  emit recRetaa s

/-- R209. -/
def recRetab : DecodedInstr :=
  recordNoOperand .retab .ret

/-- R209: the record of `recRetab` stands on the output ports. -/
def execRetab (s : State) : Host.Outcome State Fault Refusal :=
  emit recRetab s

end Sys2Proof.Machine
end

