-- ==== Sys2Proof/Machine/TestBranch.lean ====
section
/-! DEFINITION. Group TEST: `TBZ` and `TBNZ` (43_test_and_branch.md R160 to R165). No register is read and no bit is tested (R160). -/

namespace Sys2Proof.Machine

/-- R160, R161, R165: tested register, bit index, displacement; category ConditionalBranch. -/
def recordTest (m : Mnemonic) (b5 : Bool) (b40 : BitVec 5) (imm14 : BitVec 14) (rt : RegIndex) : DecodedInstr :=
  ⟨m, condAbsent, .reg (regByWidth b5 rt), .imm (bitIndex b5 b40), .pcrel (dispTest imm14), .conditionalBranch⟩

/-- R160. -/
def recTbz (b5 : Bool) (b40 : BitVec 5) (imm14 : BitVec 14) (rt : RegIndex) : DecodedInstr :=
  recordTest .tbz b5 b40 imm14 rt

/-- R160: the record of `recTbz` stands on the output ports. -/
def execTbz (b5 : Bool) (b40 : BitVec 5) (imm14 : BitVec 14) (rt : RegIndex) (s : State) : Host.Outcome State Fault Refusal :=
  emit (recTbz b5 b40 imm14 rt) s

/-- R161. -/
def recTbnz (b5 : Bool) (b40 : BitVec 5) (imm14 : BitVec 14) (rt : RegIndex) : DecodedInstr :=
  recordTest .tbnz b5 b40 imm14 rt

/-- R161: the record of `recTbnz` stands on the output ports. -/
def execTbnz (b5 : Bool) (b40 : BitVec 5) (imm14 : BitVec 14) (rt : RegIndex) (s : State) : Host.Outcome State Fault Refusal :=
  emit (recTbnz b5 b40 imm14 rt) s

end Sys2Proof.Machine
end

