-- ==== Sys2Proof/Machine/UncondImm.lean ====
section
/-! DEFINITION. Group UNCOND_IMM: `B` and `BL` (42_unconditional_branch_imm.md R150 to R154). No link register is named (R151). -/

namespace Sys2Proof.Machine

/-- R150, R151, R152: one PCREL operand, category Branch. -/
def recordUncondImm (m : Mnemonic) (imm26 : BitVec 26) : DecodedInstr :=
  ⟨m, condAbsent, .pcrel (dispUncondImm imm26), .none, .none, .branch⟩

/-- R150. -/
def recB (imm26 : BitVec 26) : DecodedInstr :=
  recordUncondImm .b imm26

/-- R150: the record of `recB` stands on the output ports. -/
def execB (imm26 : BitVec 26) (s : State) : Host.Outcome State Fault Refusal :=
  emit (recB imm26) s

/-- R151. -/
def recBl (imm26 : BitVec 26) : DecodedInstr :=
  recordUncondImm .bl imm26

/-- R151: the record of `recBl` stands on the output ports. -/
def execBl (imm26 : BitVec 26) (s : State) : Host.Outcome State Fault Refusal :=
  emit (recBl imm26) s

end Sys2Proof.Machine
end

