-- ==== Sys2Proof/Machine/Dispatch.lean ====
section
/-! DEFINITION. One arm per constructor of Instr, each one call of its meaning. -/

namespace Sys2Proof.Machine

def exec (i : Instr) (s : State) : Host.Outcome State Fault Refusal :=
  match i with
  | .bCond imm19 cond => Sys2Proof.Machine.execBCond imm19 cond s
  | .bcCond imm19 cond => Sys2Proof.Machine.execBcCond imm19 cond s
  | .b imm26 => Sys2Proof.Machine.execB imm26 s
  | .bl imm26 => Sys2Proof.Machine.execBl imm26 s
  | .tbz b5 b40 imm14 rt => Sys2Proof.Machine.execTbz b5 b40 imm14 rt s
  | .tbnz b5 b40 imm14 rt => Sys2Proof.Machine.execTbnz b5 b40 imm14 rt s
  | .cbz sf imm19 rt => Sys2Proof.Machine.execCbz sf imm19 rt s
  | .cbnz sf imm19 rt => Sys2Proof.Machine.execCbnz sf imm19 rt s
  | .br rn => Sys2Proof.Machine.execBr rn s
  | .braaz rn => Sys2Proof.Machine.execBraaz rn s
  | .brabz rn => Sys2Proof.Machine.execBrabz rn s
  | .braa rn op4 => Sys2Proof.Machine.execBraa rn op4 s
  | .brab rn op4 => Sys2Proof.Machine.execBrab rn op4 s
  | .blr rn => Sys2Proof.Machine.execBlr rn s
  | .blraaz rn => Sys2Proof.Machine.execBlraaz rn s
  | .blraa rn op4 => Sys2Proof.Machine.execBlraa rn op4 s
  | .blrabz rn => Sys2Proof.Machine.execBlrabz rn s
  | .blrab rn op4 => Sys2Proof.Machine.execBlrab rn op4 s
  | .ret rn => Sys2Proof.Machine.execRet rn s
  | .retaa => Sys2Proof.Machine.execRetaa s
  | .retab => Sys2Proof.Machine.execRetab s
  | .eret => Sys2Proof.Machine.execEret s
  | .eretaa => Sys2Proof.Machine.execEretaa s
  | .eretab => Sys2Proof.Machine.execEretab s
  | .drps => Sys2Proof.Machine.execDrps s

end Sys2Proof.Machine
end

