-- ==== Sys2Proof/Machine/Step.lean ====
section
/-! DEFINITION. One evaluation of the block (R18: "it takes one step per word"): the group on `grp` selects the decoder
(R71), and the outputs take the record or the decode error of the word. -/

namespace Sys2Proof.Machine

/-- R37, step 2. A `grp` outside the contract is refused (R22, R245); a decode error is an output value (R230); a decoded
instruction is the meaning of that instruction. -/
def step (s : State) : Host.Outcome State Fault Refusal :=
  match EncGroup.ofCode s.grp with
  | none => .refused (.grpOutsideContract s.grp)
  | some g =>
    match decodeInstr g s.word with
    | .ok i => exec i s
    | .error e => raiseDecodeError e s

/-- The host presents the word whose bits are `w`, with the group its top-level bits route it to (R37 step 1, R78; log
entry 2). For a word of no group the `grp` port is left as it is. -/
def State.withFetchWord (s : State) (nbits w : Nat) : State :=
  match routeGroup (tableWord nbits w) with
  | some g => s.present g.code (tableWord nbits w)
  | none => s.present s.grp (tableWord nbits w)

end Sys2Proof.Machine
end

