-- ==== Sys2Proof/Machine/Record.lean ====
section
/-! DEFINITION. The block as R19 and R71 give it: `decode`, a total function from a group and a word to a decoded
instruction record or a decode error; and its output ports as a function of its input ports (R5, R260). -/

namespace Sys2Proof

/-- The decoded record an instruction stands for (R24). -/
def Instr.record : Instr → DecodedInstr
  | .bCond imm19 cond => Machine.recBCond imm19 cond
  | .bcCond imm19 cond => Machine.recBcCond imm19 cond
  | .b imm26 => Machine.recB imm26
  | .bl imm26 => Machine.recBl imm26
  | .tbz b5 b40 imm14 rt => Machine.recTbz b5 b40 imm14 rt
  | .tbnz b5 b40 imm14 rt => Machine.recTbnz b5 b40 imm14 rt
  | .cbz sf imm19 rt => Machine.recCbz sf imm19 rt
  | .cbnz sf imm19 rt => Machine.recCbnz sf imm19 rt
  | .br rn => Machine.recBr rn
  | .braaz rn => Machine.recBraaz rn
  | .brabz rn => Machine.recBrabz rn
  | .braa rn op4 => Machine.recBraa rn op4
  | .brab rn op4 => Machine.recBrab rn op4
  | .blr rn => Machine.recBlr rn
  | .blraaz rn => Machine.recBlraaz rn
  | .blraa rn op4 => Machine.recBlraa rn op4
  | .blrabz rn => Machine.recBlrabz rn
  | .blrab rn op4 => Machine.recBlrab rn op4
  | .ret rn => Machine.recRet rn
  | .retaa => Machine.recRetaa
  | .retab => Machine.recRetab
  | .eret => Machine.recEret
  | .eretaa => Machine.recEretaa
  | .eretab => Machine.recEretab
  | .drps => Machine.recDrps

/-- R19, R71: the block's function. -/
def decode (g : EncGroup) (w : Word) : Except DecodeError DecodedInstr :=
  match decodeInstr g w with
  | .ok i => .ok i.record
  | .error e => .error e

/-- The result (R24) of a decode. -/
def Result.ofDecode : Except DecodeError DecodedInstr → Result
  | .ok r => .ok r
  | .error e => .error e

/-- R5, R24, R260: the output ports as the function of the input ports, where `grp` is in the contract (R22). -/
def outputsOf (grp : GrpCode) (word : Word) : Option OutPorts :=
  match EncGroup.ofCode grp with
  | some g => some (OutPorts.ofResult (Result.ofDecode (decode g word)))
  | none => none

end Sys2Proof
end

