-- ==== Sys2Proof/Machine/HostSide.lean ====
section
/-! DEFINITION. The host's side of the contract, outside the block: a session of presentations (R37, R54), the sampling
of the outputs in time (R265), a decode error taken as data (R237), and the branch target (R34). -/

namespace Sys2Proof.Machine

/-- The outputs read so far, with one more read before them. -/
def withOutput (o : OutPorts) :
    Host.Outcome (List OutPorts × State) Fault Refusal → Host.Outcome (List OutPorts × State) Fault Refusal
  | .next (outs, u) => .next (o :: outs, u)
  | .fault f => .fault f
  | .refused r => .refused r

/-- R37: for each input of the list the host presents it, the block evaluates, and the host reads the outputs. Answers
the outputs read, in order, and the ports at the end; stops at the first input outside the contract. -/
def session : List (GrpCode × Word) → State → Host.Outcome (List OutPorts × State) Fault Refusal
  | [], s => .next ([], s)
  | (g, w) :: rest, s =>
    match step (s.present g w) with
    | .next t => withOutput t.out (session rest t)
    | .fault f => .fault f
    | .refused r => .refused r

/-- R265: what a host reads `elapsed` time units after the inputs changed from those of `old` to those of `settled`,
where `settled` is the state after the evaluation. Before `T_PD` the value is free. -/
def sampleAfter (elapsed : Nat) (old settled : State) : OutPorts :=
  if elapsed < Config.tPD then
    Config.transientPorts old.grp old.word settled.grp settled.word elapsed
  else settled.out

/-- R37 step 3, R237: the host takes a decode error "as data", never as a fatal condition of the block. -/
def hostTakesAsData : Result → Bool
  | .ok _ => false
  | .error _ => true

/-- R34: the target the consumer computes from a PCREL operand and the address `a` of the word, modulo 2^64. -/
def pcrelTarget (a : BitVec 64) : Operand → Option (BitVec 64)
  | .pcrel d => some (a + d)
  | .none => none
  | .reg _ => none
  | .imm _ => none

/-- R34, R79: the PC-relative target of a record, from the slot that holds its PCREL operand. -/
def branchTarget (a : BitVec 64) (r : DecodedInstr) : Option (BitVec 64) :=
  match pcrelTarget a r.slot0 with
  | some t => some t
  | none =>
    match pcrelTarget a r.slot1 with
    | some t => some t
    | none => pcrelTarget a r.slot2

end Sys2Proof.Machine
end

