-- ==== Sys2Proof/Machine/OpcodeTable.lean ====
section
/-! DEFINITION. spec/opcode_table.json as data: for each row its group, the bits the block examines to select it
(`block_match`, `block_mask`), the complete pattern with the group bits (`match`, `mask`), its constraint, and the bits
that select it or are one of its fields. The decoder does not use this table; the table is a second account of it. -/

namespace Sys2Proof

/-- The 25 rows of spec/opcode_table.json, in its order. -/
inductive TableRow
  | bCond | bcCond | b | bl | tbz
  | tbnz | cbz | cbnz | br | braaz
  | brabz | braa | brab | blr | blraaz
  | blraa | blrabz | blrab | ret | retaa
  | retab | eret | eretaa | eretab | drps
  deriving DecidableEq, Repr

/-- All the rows, in the table's order. -/
def TableRow.all : List TableRow :=
  [.bCond, .bcCond, .b, .bl, .tbz, .tbnz, .cbz, .cbnz, .br,
   .braaz, .brabz, .braa, .brab, .blr, .blraaz, .blraa, .blrabz, .blrab,
   .ret, .retaa, .retab, .eret, .eretaa, .eretab, .drps]

/-- The row's `group`. -/
def TableRow.group : TableRow → EncGroup
  | .bCond => .cond
  | .bcCond => .cond
  | .b => .uncondImm
  | .bl => .uncondImm
  | .tbz => .test
  | .tbnz => .test
  | .cbz => .compare
  | .cbnz => .compare
  | .br => .regIndirect
  | .braaz => .regIndirect
  | .brabz => .regIndirect
  | .braa => .regIndirect
  | .brab => .regIndirect
  | .blr => .regIndirect
  | .blraaz => .regIndirect
  | .blraa => .regIndirect
  | .blrabz => .regIndirect
  | .blrab => .regIndirect
  | .ret => .regIndirect
  | .retaa => .regIndirect
  | .retab => .regIndirect
  | .eret => .regIndirect
  | .eretaa => .regIndirect
  | .eretab => .regIndirect
  | .drps => .regIndirect

/-- The row's `block_match`. -/
def TableRow.blockMatch : TableRow → Word
  | .bCond => 0x00000000#32
  | .bcCond => 0x00000010#32
  | .b => 0x00000000#32
  | .bl => 0x80000000#32
  | .tbz => 0x00000000#32
  | .tbnz => 0x01000000#32
  | .cbz => 0x00000000#32
  | .cbnz => 0x01000000#32
  | .br => 0x001F0000#32
  | .braaz => 0x001F081F#32
  | .brabz => 0x001F0C1F#32
  | .braa => 0x011F0800#32
  | .brab => 0x011F0C00#32
  | .blr => 0x003F0000#32
  | .blraaz => 0x003F081F#32
  | .blraa => 0x003F0800#32
  | .blrabz => 0x003F0C1F#32
  | .blrab => 0x003F0C00#32
  | .ret => 0x005F0000#32
  | .retaa => 0x005F0BFF#32
  | .retab => 0x005F0FFF#32
  | .eret => 0x009F03E0#32
  | .eretaa => 0x009F0BFF#32
  | .eretab => 0x009F0FFF#32
  | .drps => 0x00BF0000#32

/-- The row's `block_mask`: the bits the block itself examines to select the row. -/
def TableRow.blockMask : TableRow → Word
  | .bCond => 0x01000010#32
  | .bcCond => 0x01000010#32
  | .b => 0x80000000#32
  | .bl => 0x80000000#32
  | .tbz => 0x01000000#32
  | .tbnz => 0x01000000#32
  | .cbz => 0x01000000#32
  | .cbnz => 0x01000000#32
  | .br => 0x01FFFC1F#32
  | .braaz => 0x01FFFC1F#32
  | .brabz => 0x01FFFC1F#32
  | .braa => 0x01FFFC00#32
  | .brab => 0x01FFFC00#32
  | .blr => 0x00FFFC1F#32
  | .blraaz => 0x00FFFC1F#32
  | .blraa => 0x00FFFC00#32
  | .blrabz => 0x00FFFC1F#32
  | .blrab => 0x00FFFC00#32
  | .ret => 0x01FFFC1F#32
  | .retaa => 0x01FFFFFF#32
  | .retab => 0x01FFFFFF#32
  | .eret => 0x01FFFFFF#32
  | .eretaa => 0x01FFFFFF#32
  | .eretab => 0x01FFFFFF#32
  | .drps => 0x01FF0000#32

/-- The row's `match`, with the group bits of R78. -/
def TableRow.fullMatch : TableRow → Word
  | .bCond => 0x54000000#32
  | .bcCond => 0x54000010#32
  | .b => 0x14000000#32
  | .bl => 0x94000000#32
  | .tbz => 0x36000000#32
  | .tbnz => 0x37000000#32
  | .cbz => 0x34000000#32
  | .cbnz => 0x35000000#32
  | .br => 0xD61F0000#32
  | .braaz => 0xD61F081F#32
  | .brabz => 0xD61F0C1F#32
  | .braa => 0xD71F0800#32
  | .brab => 0xD71F0C00#32
  | .blr => 0xD63F0000#32
  | .blraaz => 0xD63F081F#32
  | .blraa => 0xD63F0800#32
  | .blrabz => 0xD63F0C1F#32
  | .blrab => 0xD63F0C00#32
  | .ret => 0xD65F0000#32
  | .retaa => 0xD65F0BFF#32
  | .retab => 0xD65F0FFF#32
  | .eret => 0xD69F03E0#32
  | .eretaa => 0xD69F0BFF#32
  | .eretab => 0xD69F0FFF#32
  | .drps => 0xD6BF0000#32

/-- The row's `mask`, with the group bits of R78. -/
def TableRow.fullMask : TableRow → Word
  | .bCond => 0xFF000010#32
  | .bcCond => 0xFF000010#32
  | .b => 0xFC000000#32
  | .bl => 0xFC000000#32
  | .tbz => 0x7F000000#32
  | .tbnz => 0x7F000000#32
  | .cbz => 0x7F000000#32
  | .cbnz => 0x7F000000#32
  | .br => 0xFFFFFC1F#32
  | .braaz => 0xFFFFFC1F#32
  | .brabz => 0xFFFFFC1F#32
  | .braa => 0xFFFFFC00#32
  | .brab => 0xFFFFFC00#32
  | .blr => 0xFEFFFC1F#32
  | .blraaz => 0xFEFFFC1F#32
  | .blraa => 0xFEFFFC00#32
  | .blrabz => 0xFEFFFC1F#32
  | .blrab => 0xFEFFFC00#32
  | .ret => 0xFFFFFC1F#32
  | .retaa => 0xFFFFFFFF#32
  | .retab => 0xFFFFFFFF#32
  | .eret => 0xFFFFFFFF#32
  | .eretaa => 0xFFFFFFFF#32
  | .eretab => 0xFFFFFFFF#32
  | .drps => 0xFFFF0000#32

/-- The bits that select the row or belong to a field of it (the letters of its `encoding`). -/
def TableRow.readMask : TableRow → Word
  | .bCond => 0x01FFFFFF#32
  | .bcCond => 0x01FFFFFF#32
  | .b => 0x83FFFFFF#32
  | .bl => 0x83FFFFFF#32
  | .tbz => 0x81FFFFFF#32
  | .tbnz => 0x81FFFFFF#32
  | .cbz => 0x81FFFFFF#32
  | .cbnz => 0x81FFFFFF#32
  | .br => 0x01FFFFFF#32
  | .braaz => 0x01FFFFFF#32
  | .brabz => 0x01FFFFFF#32
  | .braa => 0x01FFFFFF#32
  | .brab => 0x01FFFFFF#32
  | .blr => 0x00FFFFFF#32
  | .blraaz => 0x00FFFFFF#32
  | .blraa => 0x00FFFFFF#32
  | .blrabz => 0x00FFFFFF#32
  | .blrab => 0x00FFFFFF#32
  | .ret => 0x01FFFFFF#32
  | .retaa => 0x01FFFFFF#32
  | .retab => 0x01FFFFFF#32
  | .eret => 0x01FFFFFF#32
  | .eretaa => 0x01FFFFFF#32
  | .eretab => 0x01FFFFFF#32
  | .drps => 0x01FF0000#32

/-- The row's `constraint`: `op4 != 0b11111` for `BLRAA` and `BLRAB` (R199, R201). -/
def TableRow.constraint (r : TableRow) (w : Word) : Bool :=
  match r with
  | .bCond => true
  | .bcCond => true
  | .b => true
  | .bl => true
  | .tbz => true
  | .tbnz => true
  | .cbz => true
  | .cbnz => true
  | .br => true
  | .braaz => true
  | .brabz => true
  | .braa => true
  | .brab => true
  | .blr => true
  | .blraaz => true
  | .blraa => w &&& 0x1F#32 != 0x1F#32
  | .blrabz => true
  | .blrab => w &&& 0x1F#32 != 0x1F#32
  | .ret => true
  | .retaa => true
  | .retab => true
  | .eret => true
  | .eretaa => true
  | .eretab => true
  | .drps => true

/-- A word has the row's pattern, as far as the block examines it. -/
def TableRow.selects (r : TableRow) (w : Word) : Bool :=
  w &&& r.blockMask == r.blockMatch && r.constraint w

/-- The row an instruction is one of. -/
def Instr.row : Instr → TableRow
  | .bCond _ _ => .bCond
  | .bcCond _ _ => .bcCond
  | .b _ => .b
  | .bl _ => .bl
  | .tbz _ _ _ _ => .tbz
  | .tbnz _ _ _ _ => .tbnz
  | .cbz _ _ _ => .cbz
  | .cbnz _ _ _ => .cbnz
  | .br _ => .br
  | .braaz _ => .braaz
  | .brabz _ => .brabz
  | .braa _ _ => .braa
  | .brab _ _ => .brab
  | .blr _ => .blr
  | .blraaz _ => .blraaz
  | .blraa _ _ => .blraa
  | .blrabz _ => .blrabz
  | .blrab _ _ => .blrab
  | .ret _ => .ret
  | .retaa => .retaa
  | .retab => .retab
  | .eret => .eret
  | .eretaa => .eretaa
  | .eretab => .eretab
  | .drps => .drps

end Sys2Proof
end

