-- ==== Sys2Proof/Safety.lean ====
section
/-! DEFINITION. What claims are stated in: the inputs' contract (R22), the invariants of the output ports (R24 to R31,
R126), and the outputs being settled on the inputs (R260). -/

namespace Sys2Proof

/-- R77, R180: the five fields of a register-indirect word. -/
abbrev RegIndirectFields (w : Word) (opc : BitVec 4) (op2 : BitVec 5) (op3 : BitVec 6) (rn op4 : BitVec 5) : Prop :=
  w.extractLsb' 21 4 = opc ∧ w.extractLsb' 16 5 = op2 ∧ w.extractLsb' 10 6 = op3 ∧
  w.extractLsb' 5 5 = rn ∧ w.extractLsb' 0 5 = op4

/-- The ports of one slot (R26 (a), R28, R30): the ports its kind leaves without meaning are zero; an IMM is a tested-bit
index, 0 to 63 (R28, R126); a PCREL is a multiple of 4 (R53) in [-2^27, 2^27 - 4] (R126). -/
def SlotPorts.Legal (p : SlotPorts) : Prop :=
  (p.kind = 0 → p.reg = 0 ∧ p.imm = 0) ∧
  (p.kind = 1 → p.imm = 0) ∧
  (p.kind = 2 → p.reg = 0 ∧ p.imm.toNat ≤ 63) ∧
  (p.kind = 3 → p.reg = 0 ∧ (4 : Int) ∣ p.imm.toInt ∧
    -(2 : Int) ^ 27 ≤ p.imm.toInt ∧ p.imm.toInt ≤ (2 : Int) ^ 27 - 4)

/-- The instruction outputs when `ok` = 1. -/
structure OutPorts.LegalInstr (p : OutPorts) : Prop where
  /-- "Codes 24 to 31 are never produced" (R25). -/
  mnem : p.mnem.toNat ≤ 23
  /-- R26 (b): only `B` (0) and `BC` (2) carry a condition, and `BC` always does. -/
  condMnem : p.hasCond = true → p.mnem = 0 ∨ p.mnem = 2
  bcCond : p.mnem = 2 → p.hasCond = true
  /-- R30. -/
  condZero : p.hasCond = false → p.cond = 0
  slot0 : p.slot0.Legal
  slot1 : p.slot1.Legal
  slot2 : p.slot2.Legal
  /-- R26 (d): no gap. -/
  packed01 : p.slot0.kind = 0 → p.slot1.kind = 0
  packed12 : p.slot1.kind = 0 → p.slot2.kind = 0
  /-- R30. -/
  noError : p.errKind = 0 ∧ p.errField = 0 ∧ p.errValue = 0

/-- The outputs when `ok` = 0: one of the three kinds (R231), one of the eight fields (R233), all else zero (R30). -/
structure OutPorts.LegalError (p : OutPorts) : Prop where
  kind : p.errKind ≠ 0
  field : 1 ≤ p.errField.toNat ∧ p.errField.toNat ≤ 8
  rest : { p with errKind := 0, errField := 0, errValue := 0 } = OutPorts.zero

/-- The output ports carry one legal result: a whole record or a whole error, never a partial one (R24). -/
structure OutPorts.Legal (p : OutPorts) : Prop where
  instr : p.ok = true → p.LegalInstr
  error : p.ok = false → p.LegalError

/-- The host keeps its side of the contract: `grp` is 0 to 4 (R22, R37). -/
def Machine.State.InContract (s : Machine.State) : Prop :=
  s.grp.toNat ≤ 4

/-- The outputs are the function of the inputs that stand on the ports (R260). -/
def Machine.State.Settled (s : Machine.State) : Prop :=
  outputsOf s.grp s.word = some s.out

/-- A safe state: the ports carry a legal result. -/
def Machine.State.PortsLegal (s : Machine.State) : Prop :=
  s.out.Legal

end Sys2Proof
end

