-- ==== Sys2Proof/Certificates/Slice0/Obligations.lean ====
section
/-! DEFINITION. The statements for the provers. A field of a word is written here as `w.extractLsb' lo width` and
`w.getLsbD n`, and a displacement as the exact integer `4 * field` (R126), not with the model's own utilities. Where a
clause rests on a decision of the spec (92_eei_decisions.md D<n>) or of the model (notes/assumptions), the docstring says
so. -/

open Sys2Proof Sys2Proof.Machine

/-! ### One step -/

/-- R71, R37: when the group on `grp` decodes the word to an instruction, the step is that instruction's meaning at that
very state. A step adds nothing around it: there is no program counter to advance (R34). -/
def Obligations.StepRunsTheDecodedInstruction : Prop :=
  ∀ (s : State) (g : EncGroup) (i : Instr),
    EncGroup.ofCode s.grp = some g → decodeInstr g s.word = .ok i → step s = exec i s

/-- R230, R239 (D20): a decode error is the block's output and no trap. The inputs stay, the error ports carry the kind,
field and value, and every instruction output is 0 (R30, D8). -/
def Obligations.DecodeErrorIsAnOutputNotATrap : Prop :=
  ∀ (s : State) (g : EncGroup) (e : DecodeError),
    EncGroup.ofCode s.grp = some g → decodeInstr g s.word = .error e →
      step s = .next { s with out :=
        ⟨false, 0, false, 0, ⟨0, 0, 0⟩, ⟨0, 0, 0⟩, ⟨0, 0, 0⟩, 0, e.kind.code, e.field.code, e.value⟩ }

/-- R22, R245 (D2, D3): a step is refused exactly for the `grp` codes 5, 6 and 7, and by that name; it answers a next
state for every word under the codes 0 to 4; it never faults (R239). -/
def Obligations.StepRefusesExactlyGrp5To7 : Prop :=
  ∀ s : State,
    (5 ≤ s.grp.toNat → step s = .refused (.grpOutsideContract s.grp)) ∧
    (s.grp.toNat ≤ 4 → ∃ t, step s = .next t ∧ t.grp = s.grp ∧ t.word = s.word)

/-- R22: the `grp` codes are 0 to 4 in the order COND, UNCOND_IMM, TEST, COMPARE, REG_INDIRECT (D2), and each code names
one group. -/
def Obligations.GroupCodesAreR22 : Prop :=
  (EncGroup.code .cond).toNat = 0 ∧ (EncGroup.code .uncondImm).toNat = 1 ∧ (EncGroup.code .test).toNat = 2 ∧
  (EncGroup.code .compare).toNat = 3 ∧ (EncGroup.code .regIndirect).toNat = 4 ∧
  ∀ (c : GrpCode) (g : EncGroup), EncGroup.ofCode c = some g ↔ c = g.code

/-! ### The meanings: each instruction completes, and what it leaves on the ports

Each equation is also the instruction's frame: of the whole state only the output ports change. -/

/-- R140, R141: the record on the ports after `B.cond` and `BC.cond`. -/
def Obligations.ExecCondBranch : Prop :=
  ∀ (imm19 : BitVec 19) (cond : BitVec 4) (s : State),
    exec (.bCond imm19 cond) s = .next { s with out := OutPorts.ofResult (.ok
      { mnemonic := .b, cond := some cond, slot0 := .pcrel (BitVec.ofInt 64 (4 * imm19.toInt)),
        slot1 := .none, slot2 := .none, category := .conditionalBranch }) } ∧
    exec (.bcCond imm19 cond) s = .next { s with out := OutPorts.ofResult (.ok
      { mnemonic := .bc, cond := some cond, slot0 := .pcrel (BitVec.ofInt 64 (4 * imm19.toInt)),
        slot1 := .none, slot2 := .none, category := .conditionalBranch }) }

/-- R150, R151: the record on the ports after `B` and `BL`. -/
def Obligations.ExecUncondImm : Prop :=
  ∀ (imm26 : BitVec 26) (s : State),
    exec (.b imm26) s = .next { s with out := OutPorts.ofResult (.ok
      { mnemonic := .b, cond := none, slot0 := .pcrel (BitVec.ofInt 64 (4 * imm26.toInt)),
        slot1 := .none, slot2 := .none, category := .branch }) } ∧
    exec (.bl imm26) s = .next { s with out := OutPorts.ofResult (.ok
      { mnemonic := .bl, cond := none, slot0 := .pcrel (BitVec.ofInt 64 (4 * imm26.toInt)),
        slot1 := .none, slot2 := .none, category := .branch }) }

/-- R160, R161, R162, R163: the record on the ports after `TBZ` and `TBNZ`; the bit index is `b40`, plus 32 when `b5` is
set, and the register is `X` exactly then. -/
def Obligations.ExecTestBranch : Prop :=
  ∀ (b5 : Bool) (b40 : BitVec 5) (imm14 : BitVec 14) (rt : RegIndex) (s : State),
    exec (.tbz b5 b40 imm14 rt) s = .next { s with out := OutPorts.ofResult (.ok
      { mnemonic := .tbz, cond := none, slot0 := .reg ⟨b5, rt⟩,
        slot1 := .imm (BitVec.ofNat 64 ((if b5 then 32 else 0) + b40.toNat)),
        slot2 := .pcrel (BitVec.ofInt 64 (4 * imm14.toInt)), category := .conditionalBranch }) } ∧
    exec (.tbnz b5 b40 imm14 rt) s = .next { s with out := OutPorts.ofResult (.ok
      { mnemonic := .tbnz, cond := none, slot0 := .reg ⟨b5, rt⟩,
        slot1 := .imm (BitVec.ofNat 64 ((if b5 then 32 else 0) + b40.toNat)),
        slot2 := .pcrel (BitVec.ofInt 64 (4 * imm14.toInt)), category := .conditionalBranch }) }

/-- R170, R171, R172, R173: the record on the ports after `CBZ` and `CBNZ`. -/
def Obligations.ExecCompareBranch : Prop :=
  ∀ (sf : Bool) (imm19 : BitVec 19) (rt : RegIndex) (s : State),
    exec (.cbz sf imm19 rt) s = .next { s with out := OutPorts.ofResult (.ok
      { mnemonic := .cbz, cond := none, slot0 := .reg ⟨sf, rt⟩,
        slot1 := .pcrel (BitVec.ofInt 64 (4 * imm19.toInt)), slot2 := .none, category := .conditionalBranch }) } ∧
    exec (.cbnz sf imm19 rt) s = .next { s with out := OutPorts.ofResult (.ok
      { mnemonic := .cbnz, cond := none, slot0 := .reg ⟨sf, rt⟩,
        slot1 := .pcrel (BitVec.ofInt 64 (4 * imm19.toInt)), slot2 := .none, category := .conditionalBranch }) }

/-- R186 to R190 (category Branch: D14; register class X: D7): the ports after `BR`, `BRAAZ`, `BRABZ`, `BRAA`, `BRAB`,
written as codes (R25, R27, R28: D4, D5, D6). A REG slot's port is `is64 ++ index`, so register n of class X is 32 + n;
every value of rn and op4 is an operand, 31 among them. -/
def Obligations.ExecBrFamily : Prop :=
  ∀ (rn op4 : RegIndex) (s : State),
    exec (.br rn) s = .next { s with out := { OutPorts.zero with
      ok := true, mnem := 7, slot0 := ⟨1, 0b1#1 ++ rn, 0⟩ } } ∧
    exec (.braaz rn) s = .next { s with out := { OutPorts.zero with
      ok := true, mnem := 10, slot0 := ⟨1, 0b1#1 ++ rn, 0⟩ } } ∧
    exec (.brabz rn) s = .next { s with out := { OutPorts.zero with
      ok := true, mnem := 11, slot0 := ⟨1, 0b1#1 ++ rn, 0⟩ } } ∧
    exec (.braa rn op4) s = .next { s with out := { OutPorts.zero with
      ok := true, mnem := 8, slot0 := ⟨1, 0b1#1 ++ rn, 0⟩, slot1 := ⟨1, 0b1#1 ++ op4, 0⟩ } } ∧
    exec (.brab rn op4) s = .next { s with out := { OutPorts.zero with
      ok := true, mnem := 9, slot0 := ⟨1, 0b1#1 ++ rn, 0⟩, slot1 := ⟨1, 0b1#1 ++ op4, 0⟩ } }

/-- R196, R198 to R201 (category Branch: D14; class X: D7; port codes: D4, D5, D6): the ports after `BLR`, `BLRAAZ`,
`BLRABZ`, `BLRAA`, `BLRAB`. -/
def Obligations.ExecBlFamily : Prop :=
  ∀ (rn op4 : RegIndex) (s : State),
    exec (.blr rn) s = .next { s with out := { OutPorts.zero with
      ok := true, mnem := 12, slot0 := ⟨1, 0b1#1 ++ rn, 0⟩ } } ∧
    exec (.blraaz rn) s = .next { s with out := { OutPorts.zero with
      ok := true, mnem := 15, slot0 := ⟨1, 0b1#1 ++ rn, 0⟩ } } ∧
    exec (.blrabz rn) s = .next { s with out := { OutPorts.zero with
      ok := true, mnem := 16, slot0 := ⟨1, 0b1#1 ++ rn, 0⟩ } } ∧
    exec (.blraa rn op4) s = .next { s with out := { OutPorts.zero with
      ok := true, mnem := 13, slot0 := ⟨1, 0b1#1 ++ rn, 0⟩, slot1 := ⟨1, 0b1#1 ++ op4, 0⟩ } } ∧
    exec (.blrab rn op4) s = .next { s with out := { OutPorts.zero with
      ok := true, mnem := 14, slot0 := ⟨1, 0b1#1 ++ rn, 0⟩, slot1 := ⟨1, 0b1#1 ++ op4, 0⟩ } }

/-- R207 to R209 (category Return, code 2: D14, D5; class X: D7): the ports after `RET`, `RETAA`, `RETAB`. `RET` names
register rn but for rn = 30, where it has no operand (R87); rn = 31 is named. -/
def Obligations.ExecRetFamily : Prop :=
  ∀ (rn : RegIndex) (s : State),
    (rn.toNat ≠ 30 → exec (.ret rn) s = .next { s with out := { OutPorts.zero with
      ok := true, mnem := 17, slot0 := ⟨1, 0b1#1 ++ rn, 0⟩, category := 2 } }) ∧
    (rn.toNat = 30 → exec (.ret rn) s = .next { s with out := { OutPorts.zero with
      ok := true, mnem := 17, category := 2 } }) ∧
    exec .retaa s = .next { s with out := { OutPorts.zero with ok := true, mnem := 18, category := 2 } } ∧
    exec .retab s = .next { s with out := { OutPorts.zero with ok := true, mnem := 19, category := 2 } }

/-- R216 to R218 (category Return: D14), R222 (category Unspecified, code 3), R240, R241: `ERET`, `ERETAA`, `ERETAB` and
`DRPS` are named in every state, with no operand, and restore nothing: of the state only the output ports change. -/
def Obligations.ExecEretAndDrps : Prop :=
  ∀ s : State,
    exec .eret s = .next { s with out := { OutPorts.zero with ok := true, mnem := 20, category := 2 } } ∧
    exec .eretaa s = .next { s with out := { OutPorts.zero with ok := true, mnem := 21, category := 2 } } ∧
    exec .eretab s = .next { s with out := { OutPorts.zero with ok := true, mnem := 22, category := 2 } } ∧
    exec .drps s = .next { s with out := { OutPorts.zero with ok := true, mnem := 23, category := 3 } }

/-- The frame of every instruction (R20, R33, R34): the inputs stay as the host presents them, and what stands on the
outputs afterwards does not depend on the state before: not on the inputs, not on an earlier output. -/
def Obligations.ExecChangesOnlyTheOutputs : Prop :=
  ∀ (i : Instr) (s s' : State), ∃ t t',
    exec i s = .next t ∧ exec i s' = .next t' ∧ t.grp = s.grp ∧ t.word = s.word ∧ t.out = t'.out

/-! ### The decoders, rule by rule -/

/-- R140 to R144: the COND decoder as a whole. Every word, whatever its bits 31 to 25. -/
def Obligations.CondDecoder : Prop :=
  ∀ w : Word,
    (w.getLsbD 24 = true → decode .cond w = .error ⟨.reservedBitViolation, .o1, 1⟩) ∧
    (w.getLsbD 24 = false → decode .cond w = .ok
      { mnemonic := if w.getLsbD 4 then .bc else .b
        cond := some (w.extractLsb' 0 4)
        slot0 := .pcrel (BitVec.ofInt 64 (4 * (w.extractLsb' 5 19).toInt))
        slot1 := .none
        slot2 := .none
        category := .conditionalBranch })

/-- R150 to R154: the UNCOND_IMM decoder as a whole; it never returns an error. -/
def Obligations.UncondImmDecoder : Prop :=
  ∀ w : Word, decode .uncondImm w = .ok
    { mnemonic := if w.getLsbD 31 then .bl else .b
      cond := none
      slot0 := .pcrel (BitVec.ofInt 64 (4 * (w.extractLsb' 0 26).toInt))
      slot1 := .none
      slot2 := .none
      category := .branch }

/-- R160 to R165: the TEST decoder as a whole; it never returns an error. One bit, bit 31, gives both the high bit of the
index and the register class. -/
def Obligations.TestDecoder : Prop :=
  ∀ w : Word, decode .test w = .ok
    { mnemonic := if w.getLsbD 24 then .tbnz else .tbz
      cond := none
      slot0 := .reg ⟨w.getLsbD 31, w.extractLsb' 0 5⟩
      slot1 := .imm (BitVec.ofNat 64 ((if w.getLsbD 31 then 32 else 0) + (w.extractLsb' 19 5).toNat))
      slot2 := .pcrel (BitVec.ofInt 64 (4 * (w.extractLsb' 5 14).toInt))
      category := .conditionalBranch }

/-- R170 to R175: the COMPARE decoder as a whole; it never returns an error. -/
def Obligations.CompareDecoder : Prop :=
  ∀ w : Word, decode .compare w = .ok
    { mnemonic := if w.getLsbD 24 then .cbnz else .cbz
      cond := none
      slot0 := .reg ⟨w.getLsbD 31, w.extractLsb' 0 5⟩
      slot1 := .pcrel (BitVec.ofInt 64 (4 * (w.extractLsb' 5 19).toInt))
      slot2 := .none
      category := .conditionalBranch }

/-- R181: the op2 check comes first, whatever opc and every other field are. -/
def Obligations.Op2CheckComesFirst : Prop :=
  ∀ (w : Word) (opc : BitVec 4) (op2 : BitVec 5) (op3 : BitVec 6) (rn op4 : BitVec 5),
    RegIndirectFields w opc op2 op3 rn op4 → op2 ≠ 0b11111#5 →
    decode .regIndirect w = .error ⟨.malformedFixedField, .op2, 0#11 ++ op2⟩

/-- R183 (opc 1010 and 1011: D12): with op2 all ones, an opc of no family is unallocated. -/
def Obligations.UnallocatedOpcIsRejected : Prop :=
  ∀ (w : Word) (opc : BitVec 4) (op3 : BitVec 6) (rn op4 : BitVec 5),
    RegIndirectFields w opc 0b11111#5 op3 rn op4 →
    opc ∈ [0b0011#4, 0b0110#4, 0b0111#4, 0b1010#4, 0b1011#4, 0b1100#4, 0b1101#4, 0b1110#4, 0b1111#4] →
    decode .regIndirect w = .error ⟨.unallocatedEncoding, .opc, 0#12 ++ opc⟩

/-- R185 to R191 (category: D14; kind and packing of the error: D9, D10): the BR family as a whole. Its five rows, and
the packed error for every other combination of opc, op3 and op4. -/
def Obligations.BrFamilyDecoder : Prop :=
  ∀ (w : Word) (opc : BitVec 4) (op3 : BitVec 6) (rn op4 : BitVec 5),
    RegIndirectFields w opc 0b11111#5 op3 rn op4 → (opc = 0b0000#4 ∨ opc = 0b1000#4) →
    let one (m : Mnemonic) : Except DecodeError DecodedInstr := .ok
      { mnemonic := m, cond := none, slot0 := .reg ⟨true, rn⟩, slot1 := .none, slot2 := .none, category := .branch }
    let two (m : Mnemonic) : Except DecodeError DecodedInstr := .ok
      { mnemonic := m, cond := none, slot0 := .reg ⟨true, rn⟩, slot1 := .reg ⟨true, op4⟩, slot2 := .none,
        category := .branch }
    ((opc, op3, op4) = (0b0000#4, 0b000000#6, 0b00000#5) → decode .regIndirect w = one .br) ∧
    ((opc, op3, op4) = (0b0000#4, 0b000010#6, 0b11111#5) → decode .regIndirect w = one .braaz) ∧
    ((opc, op3, op4) = (0b0000#4, 0b000011#6, 0b11111#5) → decode .regIndirect w = one .brabz) ∧
    ((opc, op3) = (0b1000#4, 0b000010#6) → decode .regIndirect w = two .braa) ∧
    ((opc, op3) = (0b1000#4, 0b000011#6) → decode .regIndirect w = two .brab) ∧
    ((opc, op3, op4) ≠ (0b0000#4, 0b000000#6, 0b00000#5) → (opc, op3, op4) ≠ (0b0000#4, 0b000010#6, 0b11111#5) →
      (opc, op3, op4) ≠ (0b0000#4, 0b000011#6, 0b11111#5) → (opc, op3) ≠ (0b1000#4, 0b000010#6) →
      (opc, op3) ≠ (0b1000#4, 0b000011#6) →
      decode .regIndirect w = .error ⟨.unallocatedEncoding, .opcOp3Op4, 0#1 ++ opc ++ op3 ++ op4⟩)

/-- R195 to R202 (opc bit 3 not consulted: D13; category: D14; kinds: D9): the BL family as a whole. -/
def Obligations.BlFamilyDecoder : Prop :=
  ∀ (w : Word) (opc : BitVec 4) (op3 : BitVec 6) (rn op4 : BitVec 5),
    RegIndirectFields w opc 0b11111#5 op3 rn op4 → (opc = 0b0001#4 ∨ opc = 0b1001#4) →
    let one (m : Mnemonic) : Except DecodeError DecodedInstr := .ok
      { mnemonic := m, cond := none, slot0 := .reg ⟨true, rn⟩, slot1 := .none, slot2 := .none, category := .branch }
    let two (m : Mnemonic) : Except DecodeError DecodedInstr := .ok
      { mnemonic := m, cond := none, slot0 := .reg ⟨true, rn⟩, slot1 := .reg ⟨true, op4⟩, slot2 := .none,
        category := .branch }
    (op3 = 0b000000#6 → op4 = 0b00000#5 → decode .regIndirect w = one .blr) ∧
    (op3 = 0b000000#6 → op4 ≠ 0b00000#5 →
      decode .regIndirect w = .error ⟨.malformedFixedField, .op4, 0#11 ++ op4⟩) ∧
    (op3 = 0b000010#6 → op4 = 0b11111#5 → decode .regIndirect w = one .blraaz) ∧
    (op3 = 0b000010#6 → op4 ≠ 0b11111#5 → decode .regIndirect w = two .blraa) ∧
    (op3 = 0b000011#6 → op4 = 0b11111#5 → decode .regIndirect w = one .blrabz) ∧
    (op3 = 0b000011#6 → op4 ≠ 0b11111#5 → decode .regIndirect w = two .blrab) ∧
    (op3 ∉ [0b000000#6, 0b000010#6, 0b000011#6] →
      decode .regIndirect w = .error ⟨.unallocatedEncoding, .op3, 0#10 ++ op3⟩)

/-- R206: in the RET family with op3 = 0, a low field other than zero is malformed, whatever rn is. -/
def Obligations.RetLowFieldMustBeZero : Prop :=
  ∀ (w : Word) (rn op4 : BitVec 5), RegIndirectFields w 0b0010#4 0b11111#5 0b000000#6 rn op4 → op4 ≠ 0b00000#5 →
    decode .regIndirect w = .error ⟨.malformedFixedField, .op4, 0#11 ++ op4⟩

/-- R205 to R211 (category: D14; kinds: D9; rn reported before op4: D11): the RET family as a whole. -/
def Obligations.RetFamilyDecoder : Prop :=
  ∀ (w : Word) (op3 : BitVec 6) (rn op4 : BitVec 5), RegIndirectFields w 0b0010#4 0b11111#5 op3 rn op4 →
    let named (m : Mnemonic) (o : Operand) : Except DecodeError DecodedInstr := .ok
      { mnemonic := m, cond := none, slot0 := o, slot1 := .none, slot2 := .none, category := .ret }
    (op3 = 0b000000#6 → op4 ≠ 0b00000#5 →
      decode .regIndirect w = .error ⟨.malformedFixedField, .op4, 0#11 ++ op4⟩) ∧
    (op3 = 0b000000#6 → op4 = 0b00000#5 → rn.toNat = 30 → decode .regIndirect w = named .ret .none) ∧
    (op3 = 0b000000#6 → op4 = 0b00000#5 → rn.toNat ≠ 30 → decode .regIndirect w = named .ret (.reg ⟨true, rn⟩)) ∧
    (op3 = 0b000010#6 ∨ op3 = 0b000011#6 → rn ≠ 0b11111#5 →
      decode .regIndirect w = .error ⟨.malformedFixedField, .rn, 0#11 ++ rn⟩) ∧
    (op3 = 0b000010#6 ∨ op3 = 0b000011#6 → rn = 0b11111#5 → op4 ≠ 0b11111#5 →
      decode .regIndirect w = .error ⟨.malformedFixedField, .op4, 0#11 ++ op4⟩) ∧
    (op3 = 0b000010#6 → rn = 0b11111#5 → op4 = 0b11111#5 → decode .regIndirect w = named .retaa .none) ∧
    (op3 = 0b000011#6 → rn = 0b11111#5 → op4 = 0b11111#5 → decode .regIndirect w = named .retab .none) ∧
    (op3 ∉ [0b000000#6, 0b000010#6, 0b000011#6] →
      decode .regIndirect w = .error ⟨.unallocatedEncoding, .op3, 0#10 ++ op3⟩)

/-- R215 to R219 (category: D14; kind and packing of the error: D9, D10): the ERET family as a whole. -/
def Obligations.EretFamilyDecoder : Prop :=
  ∀ (w : Word) (op3 : BitVec 6) (rn op4 : BitVec 5), RegIndirectFields w 0b0100#4 0b11111#5 op3 rn op4 →
    let named (m : Mnemonic) : Except DecodeError DecodedInstr := .ok
      { mnemonic := m, cond := none, slot0 := .none, slot1 := .none, slot2 := .none, category := .ret }
    ((op3, rn, op4) = (0b000000#6, 0b11111#5, 0b00000#5) → decode .regIndirect w = named .eret) ∧
    ((op3, rn, op4) = (0b000010#6, 0b11111#5, 0b11111#5) → decode .regIndirect w = named .eretaa) ∧
    ((op3, rn, op4) = (0b000011#6, 0b11111#5, 0b11111#5) → decode .regIndirect w = named .eretab) ∧
    ((op3, rn, op4) ∉ [(0b000000#6, 0b11111#5, 0b00000#5), (0b000010#6, 0b11111#5, 0b11111#5), (0b000011#6, 0b11111#5, 0b11111#5)] →
      decode .regIndirect w = .error ⟨.unallocatedEncoding, .op3RnOp4, op3 ++ rn ++ op4⟩)

/-- R222: with op2 all ones and opc = 0101 the word is `DRPS`, for every op3, rn and op4. -/
def Obligations.DrpsFamilyDecoder : Prop :=
  ∀ (w : Word) (op3 : BitVec 6) (rn op4 : BitVec 5), RegIndirectFields w 0b0101#4 0b11111#5 op3 rn op4 →
    decode .regIndirect w = .ok
      { mnemonic := .drps, cond := none, slot0 := .none, slot1 := .none, slot2 := .none,
        category := .unspecified }

/-- R234, R235 (kinds at the sites the source does not name: D9; opc 1010 and 1011: D12; order in RETAA and RETAB: D11):
the reachable error sites in the table's order, "No other condition produces an error". A register-indirect word is
rejected exactly when one of these conditions holds, and with that site's error; a COND word exactly when o1 is set; a
word of another group never. -/
def Obligations.ErrorSitesAreExactlyR234 : Prop :=
  (∀ (w : Word) (e : DecodeError),
    (decode .cond w = .error e ↔ w.getLsbD 24 = true ∧ e = ⟨.reservedBitViolation, .o1, 1⟩) ∧
    decode .uncondImm w ≠ .error e ∧ decode .test w ≠ .error e ∧ decode .compare w ≠ .error e) ∧
  (∀ (w : Word) (opc : BitVec 4) (op2 : BitVec 5) (op3 : BitVec 6) (rn op4 : BitVec 5) (e : DecodeError),
    RegIndirectFields w opc op2 op3 rn op4 →
    (decode .regIndirect w = .error e ↔
      (op2 ≠ 0b11111#5 ∧ e = ⟨.malformedFixedField, .op2, 0#11 ++ op2⟩) ∨
      (op2 = 0b11111#5 ∧
        ((opc ∈ [0b0011#4, 0b0110#4, 0b0111#4, 0b1010#4, 0b1011#4, 0b1100#4, 0b1101#4, 0b1110#4, 0b1111#4] ∧
            e = ⟨.unallocatedEncoding, .opc, 0#12 ++ opc⟩) ∨
         (opc ∈ [0b0000#4, 0b1000#4] ∧
            (opc, op3, op4) ∉ [(0b0000#4, 0b000000#6, 0b00000#5), (0b0000#4, 0b000010#6, 0b11111#5), (0b0000#4, 0b000011#6, 0b11111#5)] ∧
            (opc, op3) ∉ [(0b1000#4, 0b000010#6), (0b1000#4, 0b000011#6)] ∧
            e = ⟨.unallocatedEncoding, .opcOp3Op4, 0#1 ++ opc ++ op3 ++ op4⟩) ∨
         (opc ∈ [0b0001#4, 0b1001#4] ∧ op3 = 0b000000#6 ∧ op4 ≠ 0b00000#5 ∧
            e = ⟨.malformedFixedField, .op4, 0#11 ++ op4⟩) ∨
         (opc ∈ [0b0001#4, 0b1001#4] ∧ op3 ∉ [0b000000#6, 0b000010#6, 0b000011#6] ∧
            e = ⟨.unallocatedEncoding, .op3, 0#10 ++ op3⟩) ∨
         (opc = 0b0010#4 ∧ op3 = 0b000000#6 ∧ op4 ≠ 0b00000#5 ∧ e = ⟨.malformedFixedField, .op4, 0#11 ++ op4⟩) ∨
         (opc = 0b0010#4 ∧ op3 ∈ [0b000010#6, 0b000011#6] ∧ rn ≠ 0b11111#5 ∧
            e = ⟨.malformedFixedField, .rn, 0#11 ++ rn⟩) ∨
         (opc = 0b0010#4 ∧ op3 ∈ [0b000010#6, 0b000011#6] ∧ rn = 0b11111#5 ∧ op4 ≠ 0b11111#5 ∧
            e = ⟨.malformedFixedField, .op4, 0#11 ++ op4⟩) ∨
         (opc = 0b0010#4 ∧ op3 ∉ [0b000000#6, 0b000010#6, 0b000011#6] ∧ e = ⟨.unallocatedEncoding, .op3, 0#10 ++ op3⟩) ∨
         (opc = 0b0100#4 ∧
            (op3, rn, op4) ∉ [(0b000000#6, 0b11111#5, 0b00000#5), (0b000010#6, 0b11111#5, 0b11111#5), (0b000011#6, 0b11111#5, 0b11111#5)] ∧
            e = ⟨.unallocatedEncoding, .op3RnOp4, op3 ++ rn ++ op4⟩)))))

/-- R26 (the reading of (b): C2), R3: a decoded record has its slots packed; it carries a condition code, the word's own
low four bits (R32), exactly when the group is COND, and its mnemonic is then `B` or `BC`; `B` without a condition comes
from UNCOND_IMM only. -/
def Obligations.RecordsKeepR26 : Prop :=
  ∀ (g : EncGroup) (w : Word) (r : DecodedInstr), decode g w = .ok r →
    r.wellFormed = true ∧
    (g = .cond → r.cond = some (w.extractLsb' 0 4) ∧ (r.mnemonic = .b ∨ r.mnemonic = .bc)) ∧
    (g ≠ .cond → r.cond = none ∧ r.mnemonic ≠ .bc ∧ (r.mnemonic = .b → g = .uncondImm))

/-- R81 (the register-indirect categories but DRPS: D14): the category is the mnemonic's, the two uses of `B` told apart
by the condition. -/
def Obligations.CategoriesAreR81 : Prop :=
  ∀ (g : EncGroup) (w : Word) (r : DecodedInstr), decode g w = .ok r →
    r.category =
      if r.cond.isSome ∨ r.mnemonic ∈ [.tbz, .tbnz, .cbz, .cbnz] then .conditionalBranch
      else if r.mnemonic ∈ [.ret, .retaa, .retab, .eret, .eretaa, .eretab] then .ret
      else if r.mnemonic = .drps then .unspecified
      else .branch

/-- R3: each of the 24 mnemonics is emitted, for a word whose top-level bits match its group (R78). -/
def Obligations.EveryMnemonicIsEmitted : Prop :=
  ∀ m : Mnemonic, ∃ (g : EncGroup) (w : Word) (r : DecodedInstr),
    routeGroup w = some g ∧ decode g w = .ok r ∧ r.mnemonic = m

/-! ### Encoding -/

/-- Words written out from the encodings of the spec (one of each family) decode to the instruction they stand for. -/
def Obligations.WordsOfTheSpecDecode : Prop :=
  decodeInstr .cond 0b01010100_1111_1111_1111_1111_100_0_0001#32 = .ok (.bCond (BitVec.ofInt 19 (-4)) 1) ∧
  decodeInstr .cond 0b01010100_1111_1111_1111_1111_111_1_1111#32 = .ok (.bcCond (BitVec.ofInt 19 (-1)) 15) ∧
  decodeInstr .uncondImm 0b100101_11_1111_1111_1111_1111_1111_1111#32 = .ok (.bl (BitVec.ofInt 26 (-1))) ∧
  decodeInstr .test 0b1_011011_1_00101_00000000000101_00011#32 = .ok (.tbnz true 5 5 3) ∧
  decodeInstr .compare 0b0_011010_1_1111111111111111111_00001#32 = .ok (.cbnz false (BitVec.ofInt 19 (-1)) 1) ∧
  decodeInstr .regIndirect 0b1101011_1000_11111_000011_10000_10001#32 = .ok (.brab 16 17) ∧
  decodeInstr .regIndirect 0b1101011_1001_11111_000010_01000_01001#32 = .ok (.blraa 8 9) ∧
  decodeInstr .regIndirect 0b1101011_0010_11111_000000_11110_00000#32 = .ok (.ret 30) ∧
  decodeInstr .regIndirect 0b1101011_0100_11111_000010_11111_11111#32 = .ok .eretaa ∧
  decodeInstr .regIndirect 0b1101011_0101_11111_000000_11111_00000#32 = .ok .drps

/-- Decode and encode agree: for every well-formed instruction, with every operand at every value, its word is routed to
its group by the top-level bits (R78, log entry 2) and decodes to that very instruction; so do its four bytes in the
order of R51 (log entry 3), whatever follows them. -/
def Obligations.DecodeOfEncode : Prop :=
  ∀ i : Instr, i.wellFormed = true →
    routeGroup (encode i) = some i.group ∧
    decodeInstr i.group (encode i) = .ok i ∧
    (∀ rest, decodeBytes (bytesOfWord (encode i) ++ rest) = .ok (i, rest))

/-- No word is decoded to an instruction that does not have its bits: for every group and word, the decoder answers `i`
exactly when `i` is a well-formed instruction of that group whose own word agrees with it on every bit that selects the
row or belongs to one of its fields (the encodings of spec/opcode_table.json; R72, R225). -/
def Obligations.DecodedWordIsTheInstructionsOwn : Prop :=
  ∀ (g : EncGroup) (w : Word) (i : Instr),
    decodeInstr g w = .ok i ↔
      i.group = g ∧ i.wellFormed = true ∧ w &&& i.row.readMask = encode i &&& i.row.readMask

/-- spec/opcode_table.json: the decoder answers an instruction of a row exactly when the row is of the group and its
`block_match`, `block_mask` and `constraint` select the word; in particular no two rows of a group select one word, and
a word that no row selects is an error. -/
def Obligations.OpcodeTableSelectsTheRow : Prop :=
  ∀ (g : EncGroup) (w : Word) (r : TableRow),
    (∃ i, decodeInstr g w = .ok i ∧ i.row = r) ↔ r.group = g ∧ r.selects w = true

/-- spec/opcode_table.json with the group bits of R78 (log entry 2): a word with a row's complete pattern (`match`,
`mask`, `constraint`) is routed to the row's group and decodes to an instruction of the row. -/
def Obligations.FullPatternsRouteAndDecode : Prop :=
  ∀ (r : TableRow) (w : Word), w &&& r.fullMask = r.fullMatch → r.constraint w = true →
    ∃ i, decodeRouted w = .ok i ∧ i.row = r

/-- R72: a word's bits outside those its group's decoder names never matter; in particular the group's own top-level
bits (R23). -/
def Obligations.UnreadBitsNeverMatter : Prop :=
  ∀ w w' : Word,
    (w &&& 0x01FFFFFF#32 = w' &&& 0x01FFFFFF#32 → decode .cond w = decode .cond w') ∧
    (w &&& 0x83FFFFFF#32 = w' &&& 0x83FFFFFF#32 → decode .uncondImm w = decode .uncondImm w') ∧
    (w &&& 0x81FFFFFF#32 = w' &&& 0x81FFFFFF#32 → decode .test w = decode .test w') ∧
    (w &&& 0x81FFFFFF#32 = w' &&& 0x81FFFFFF#32 → decode .compare w = decode .compare w') ∧
    (w &&& 0x01FFFFFF#32 = w' &&& 0x01FFFFFF#32 → decode .regIndirect w = decode .regIndirect w')

/-- R225: within the register-indirect group the BL family does not read bit 24 (D13), and the DRPS family and the
unallocated opc values read nothing below bit 16. -/
def Obligations.FamiliesReadOnlyTheirBits : Prop :=
  ∀ (w w' : Word) (opc opc' : BitVec 4) (op3 op3' : BitVec 6) (rn rn' op4 op4' : BitVec 5),
    RegIndirectFields w opc 0b11111#5 op3 rn op4 → RegIndirectFields w' opc' 0b11111#5 op3' rn' op4' →
    (opc ∈ [0b0001#4, 0b1001#4] → opc' ∈ [0b0001#4, 0b1001#4] → op3 = op3' → rn = rn' → op4 = op4' →
      decode .regIndirect w = decode .regIndirect w') ∧
    (opc ∈ [0b0101#4, 0b0011#4, 0b0110#4, 0b0111#4, 0b1010#4, 0b1011#4, 0b1100#4, 0b1101#4, 0b1110#4, 0b1111#4] → opc = opc' →
      decode .regIndirect w = decode .regIndirect w')

/-- The host presents the word of any well-formed instruction at any state: the next step runs exactly that instruction,
with the word and its group's code on the input ports (R37, R78: log entry 2). -/
def Obligations.PresentedInstructionRuns : Prop :=
  ∀ (i : Instr) (s : State), i.wellFormed = true →
    decodeTableWord 32 (encode i).toNat = some i ∧
    step (s.withFetchWord 32 (encode i).toNat) =
      exec i { s with grp := i.group.code, word := encode i }

/-! ### The utilities -/

/-- R120, R121 (D21): the utilities inside their contracts as arithmetic on the word's value, and the refusal outside. -/
def Obligations.UtilitiesKeepTheirContracts : Prop :=
  ∀ (w : Word) (lo width n : Nat),
    (1 ≤ width → lo + width ≤ 32 → ∃ v, extractChecked w lo width = .ok v ∧ v = extract w lo width ∧
      v.toNat = w.toNat / 2 ^ lo % 2 ^ width) ∧
    (width = 0 ∨ 32 < lo + width → extractChecked w lo width = .error .utilityArgument) ∧
    (n ≤ 31 → testBitChecked w n = .ok (testBit w n) ∧ (testBit w n = true ↔ w.toNat / 2 ^ n % 2 = 1)) ∧
    (31 < n → testBitChecked w n = .error .utilityArgument)

/-- R122 (sign bit at ow - 1 and higher bits ignored: C9, D15): bit by bit, the result has the field's own bits, and the
field's most significant bit above them. -/
def Obligations.SignExtendReplicatesTheTopBit : Prop :=
  ∀ (n ow tw : Nat) (v : BitVec n), 1 ≤ ow → ow ≤ tw → tw ≤ 64 →
    ∀ j, j < tw → (signExtend v ow tw).getLsbD j = if j < ow then v.getLsbD j else v.getLsbD (ow - 1)

/-- R124: the two sign-extension entry points agree bit for bit, for every width and every value. R122 (sign bit at w - 1
and higher bits ignored: C9, D15): both give the signed value of the low `w` bits. -/
def Obligations.SignExtensionsAgree : Prop :=
  ∀ (w : Nat) (v : BitVec 64), 1 ≤ w → w ≤ 64 →
    correctedSign v w = signExtend v w 64 ∧ (correctedSign v w).toInt = (v.setWidth w).toInt

/-- R125: scaling before or after the sign extension gives one displacement. -/
def Obligations.ScalingLaw : Prop :=
  ∀ (n : Nat) (v : BitVec n), 1 ≤ n → n ≤ 62 →
    signExtend (v ++ 0b00#2) (n + 2) 64 = correctedSign v n * 4

/-- R127: for each immediate field, encoding a displacement and decoding it reproduces exactly that displacement, for
every multiple of 4 in range, and no other displacement is the value of any field. -/
def Obligations.DisplacementRoundTrip : Prop :=
  ∀ d : Int,
    ((4 : Int) ∣ d ∧ -(2 : Int) ^ 20 ≤ d ∧ d ≤ (2 : Int) ^ 20 - 4 →
      (dispCond (dispField 19 d)).toInt = d ∧ (dispCompare (dispField 19 d)).toInt = d) ∧
    ((4 : Int) ∣ d ∧ -(2 : Int) ^ 27 ≤ d ∧ d ≤ (2 : Int) ^ 27 - 4 →
      (dispUncondImm (dispField 26 d)).toInt = d) ∧
    ((4 : Int) ∣ d ∧ -(2 : Int) ^ 15 ≤ d ∧ d ≤ (2 : Int) ^ 15 - 4 →
      (dispTest (dispField 14 d)).toInt = d) ∧
    (∀ f : BitVec 19, (dispCond f).toInt = d ∨ (dispCompare f).toInt = d →
      (4 : Int) ∣ d ∧ -(2 : Int) ^ 20 ≤ d ∧ d ≤ (2 : Int) ^ 20 - 4) ∧
    (∀ f : BitVec 26, (dispUncondImm f).toInt = d →
      (4 : Int) ∣ d ∧ -(2 : Int) ^ 27 ≤ d ∧ d ≤ (2 : Int) ^ 27 - 4) ∧
    (∀ f : BitVec 14, (dispTest f).toInt = d →
      (4 : Int) ∣ d ∧ -(2 : Int) ^ 15 ≤ d ∧ d ≤ (2 : Int) ^ 15 - 4)

/-! ### The output ports -/

/-- R25, R29, R231, R233 (labellings of the spec: D4, D5, D10): the port codes. -/
def Obligations.PortCodes : Prop :=
  Mnemonic.all.map Mnemonic.code = (List.range 24).map (BitVec.ofNat 5) ∧
  [Category.branch, .conditionalBranch, .ret, .unspecified].map Category.code = [0, 1, 2, 3] ∧
  [ErrorKind.reservedBitViolation, .unallocatedEncoding, .malformedFixedField].map ErrorKind.code = [1, 2, 3] ∧
  [ErrorField.o1, .op2, .opc, .op3, .rn, .op4, .opcOp3Op4, .op3RnOp4].map ErrorField.code = [1, 2, 3, 4, 5, 6, 7, 8]

/-- R24, R37: the ports carry the whole result and lose nothing: what the host reads back from them is the result (port
codes: D4, D5, D6, D10). -/
def Obligations.PortsCarryTheWholeResult : Prop :=
  ∀ r : Result, (OutPorts.ofResult r).toResult = some r

/-- R24, R25, R26, R30 (D8), R53, R126: whatever stood on the outputs before, a step leaves a legal result on them. -/
def Obligations.StepKeepsPortsLegal : Prop :=
  ∀ s t : State, step s = .next t → t.PortsLegal

/-- R260 and the power-up state (the inputs at power-up are the model's choice: log entry 1): the outputs are legal and
are already the function of the inputs. -/
def Obligations.PowerUpIsLegalAndSettled : Prop :=
  State.reset.PortsLegal ∧ State.reset.Settled ∧ State.reset.InContract

/-- R260, R5: after a step the outputs are the function of the inputs on the ports, whatever stood on them before, and
the inputs are unchanged. -/
def Obligations.StepSettlesTheOutputs : Prop :=
  ∀ s t : State, step s = .next t → t.Settled ∧ t.InContract ∧ t.grp = s.grp ∧ t.word = s.word

/-! ### No state: repetition, order, instances -/

/-- R263: "decoding the same word twice yields bit-identical results": after a step, another step changes nothing. -/
def Obligations.DecodingTwiceIsIdentical : Prop :=
  ∀ s t : State, step s = .next t → step t = .next t

/-- R20, R243: two blocks (or one block at two times) with the same inputs give the same outcome, whatever their outputs
were: a decode sees nothing of an earlier one. -/
def Obligations.OutputsDependOnTheInputsAlone : Prop :=
  ∀ (s s' : State), s.grp = s'.grp → s.word = s'.word →
    (∀ t, step s = .next t → ∃ t', step s' = .next t' ∧ t'.out = t.out) ∧
    (∀ r, step s = .refused r → step s' = .refused r)

/-- R37, R54, R263: in a session of any length, from any state, each output the host reads is its own input's, whatever
was presented before it; and nothing in the contract stops a session. -/
def Obligations.SessionResultsAreEachInputsOwn : Prop :=
  ∀ (l : List (EncGroup × Word)) (s : State), ∃ t,
    session (l.map fun p => (p.1.code, p.2)) s =
      .next (l.map fun p => OutPorts.ofResult (Result.ofDecode (decode p.1 p.2)), t)

/-- R54: "every order gives the same set of results": sessions over the same inputs in two orders, from two states, read
the same outputs up to order. -/
def Obligations.SessionOrderDoesNotMatter : Prop :=
  ∀ (l l' : List (GrpCode × Word)) (s s' t : State) (outs : List OutPorts),
    l.Perm l' → session l s = .next (outs, t) →
    ∃ outs' t', session l' s' = .next (outs', t') ∧ outs.Perm outs'

/-! ### The host's side -/

/-- R265 (the time unit is open: D18): a host that waits `T_PD` reads the settled outputs; nothing is said of an earlier
sample. -/
def Obligations.SampleAfterTpdIsSettled : Prop :=
  ∀ (old s t : State) (elapsed : Nat), step s = .next t → Config.tPD ≤ elapsed →
    outputsOf s.grp s.word = some (sampleAfter elapsed old t)

/-- R34 (modulo 2^64: D16), R79: the target a consumer computes from a decoded word at address `a`, for each of the four
immediate groups, as a number. -/
def Obligations.TargetsWrapModulo2Pow64 : Prop :=
  ∀ (a : BitVec 64) (w : Word) (g : EncGroup) (r : DecodedInstr), decode g w = .ok r →
    match g with
    | .cond => ∃ t, branchTarget a r = some t ∧
        (t.toNat : Int) = (a.toNat + 4 * (w.extractLsb' 5 19).toInt) % 2 ^ 64
    | .uncondImm => ∃ t, branchTarget a r = some t ∧
        (t.toNat : Int) = (a.toNat + 4 * (w.extractLsb' 0 26).toInt) % 2 ^ 64
    | .test => ∃ t, branchTarget a r = some t ∧
        (t.toNat : Int) = (a.toNat + 4 * (w.extractLsb' 5 14).toInt) % 2 ^ 64
    | .compare => ∃ t, branchTarget a r = some t ∧
        (t.toNat : Int) = (a.toNat + 4 * (w.extractLsb' 5 19).toInt) % 2 ^ 64
    | .regIndirect => branchTarget a r = none
end

