-- ==== Sys2Proof/Laws/BitField.lean ====
section
/-! SUPPORT. The utilities and the operand forms as arithmetic: what a field of a word is as a number, and what a
displacement is as an integer. -/

namespace Sys2Proof

/-- A concatenation's value: the high part weighs `2 ^ m`. -/
theorem toNat_append_eq {n m : Nat} (x : BitVec n) (y : BitVec m) :
    (x ++ y).toNat = x.toNat * 2 ^ m + y.toNat := by
  rw [BitVec.toNat_append, ← Nat.shiftLeft_add_eq_or_of_lt y.isLt, Nat.shiftLeft_eq]

/-- A field's value. -/
theorem toNat_extract (w : Word) (lo width : Nat) :
    (extract w lo width).toNat = w.toNat / 2 ^ lo % 2 ^ width := by
  simp [extract, BitVec.extractLsb'_toNat, Nat.shiftRight_eq_div_pow]

/-- A bit as a number. -/
theorem testBit_iff (w : Word) (n : Nat) : testBit w n = true ↔ w.toNat / 2 ^ n % 2 = 1 := by
  simp [testBit, BitVec.getLsbD, Nat.testBit_eq_decide_div_mod_eq]

/-- A masked equation fixes every field that lies in the mask. -/
theorem extract_of_and_eq {w m v : Word} (h : w &&& m = v) (lo width : Nat)
    (hm : m.extractLsb' lo width = BitVec.allOnes width) : extract w lo width = v.extractLsb' lo width := by
  have := congrArg (BitVec.extractLsb' lo width) h
  simpa [BitVec.extractLsb'_and, hm, extract] using this

/-- Two zero bits below a field multiply its signed value by 4 (the shift of R142 and R152). -/
theorem toInt_append_zero_zero {n : Nat} (v : BitVec n) : (v ++ 0b00#2).toInt = 4 * v.toInt := by
  have h : (v ++ 0b00#2).toNat = v.toNat * 4 := by
    simp [BitVec.toNat_append, Nat.shiftLeft_eq]
  have := v.isLt
  rw [BitVec.toInt_eq_toNat_cond, BitVec.toInt_eq_toNat_cond, h, Nat.pow_add]
  split <;> split <;> push_cast <;> omega

/-- Sign extension at the field's own width keeps its signed value. -/
theorem toInt_signExtend_self {n : Nat} (v : BitVec n) (tw : Nat) (h : n ≤ tw) :
    (signExtend v n tw).toInt = v.toInt := by
  simp [signExtend, BitVec.toInt_signExtend_of_le h]

/-- A field's signed value lies within half its range. -/
theorem four_mul_toInt_bounds {n : Nat} (v : BitVec (n + 1)) :
    -(2 : Int) ^ (n + 2) ≤ 4 * v.toInt ∧ 4 * v.toInt ≤ (2 : Int) ^ (n + 2) - 4 := by
  have h1 := BitVec.le_toInt v
  have h2 := BitVec.toInt_lt (x := v)
  simp only [Nat.add_sub_cancel] at h1 h2
  rw [pow_add]
  omega

/-- A signed value within 64 bits is the value of its 64-bit form. -/
theorem toInt_ofInt_four_mul {n : Nat} (v : BitVec (n + 1)) (h : n ≤ 61) :
    (BitVec.ofInt 64 (4 * v.toInt)).toInt = 4 * v.toInt := by
  have hb := four_mul_toInt_bounds v
  have hp : (2 : Int) ^ (n + 2) ≤ 2 ^ 63 := pow_le_pow_right₀ (by norm_num) (by omega)
  exact BitVec.toInt_ofInt_eq_self (by norm_num) (by norm_num; omega) (by norm_num; omega)

namespace Machine

/-- R142 as the exact integer. -/
theorem dispCond_eq (v : BitVec 19) : dispCond v = BitVec.ofInt 64 (4 * v.toInt) := by
  apply BitVec.eq_of_toInt_eq
  rw [toInt_ofInt_four_mul v (by omega), dispCond, ← toInt_append_zero_zero]
  exact toInt_signExtend_self (v ++ 0b00#2) 64 (by omega)

/-- R152 as the exact integer. -/
theorem dispUncondImm_eq (v : BitVec 26) : dispUncondImm v = BitVec.ofInt 64 (4 * v.toInt) := by
  apply BitVec.eq_of_toInt_eq
  rw [toInt_ofInt_four_mul v (by omega), dispUncondImm, ← toInt_append_zero_zero]
  exact toInt_signExtend_self (v ++ 0b00#2) 64 (by omega)

/-- A field sign-extended and then multiplied by 4 (the call pattern of R163 and R173). -/
theorem correctedSign_mul_four_eq {n : Nat} (v : BitVec (n + 1)) (h : n ≤ 61) :
    correctedSign v (n + 1) * 4 = BitVec.ofInt 64 (4 * v.toInt) := by
  apply BitVec.eq_of_toInt_eq
  rw [BitVec.toInt_mul, correctedSign, toInt_signExtend_self v 64 (by omega), BitVec.toInt_ofInt,
    mul_comm, show (4 : Imm).toInt = 4 from rfl]

/-- R163 as the exact integer. -/
theorem dispTest_eq (v : BitVec 14) : dispTest v = BitVec.ofInt 64 (4 * v.toInt) :=
  correctedSign_mul_four_eq v (by omega)

/-- R173 as the exact integer. -/
theorem dispCompare_eq (v : BitVec 19) : dispCompare v = BitVec.ofInt 64 (4 * v.toInt) :=
  correctedSign_mul_four_eq v (by omega)

/-- R162 as a number. -/
theorem bitIndex_eq (b5 : Bool) (b40 : BitVec 5) :
    bitIndex b5 b40 = BitVec.ofNat 64 ((if b5 then 32 else 0) + b40.toNat) := by
  revert b5 b40; decide

/-- The register a width bit selects. -/
theorem regByWidth_eq (b : Bool) (n : RegIndex) : regByWidth b n = ⟨b, n⟩ := by
  cases b <;> rfl

end Machine

end Sys2Proof
end

