-- ==== Sys2Proof/Laws/Encode.lean ====
section
/-! SUPPORT. Each field the decoders read, read back from an encoded word. -/

namespace Sys2Proof

/-- A field of a word made of parts, when the arithmetic of the parts says so. -/
theorem extract_eq_of_toNat {w : Word} {lo width : Nat} {v : BitVec width}
    (h : w.toNat / 2 ^ lo % 2 ^ width = v.toNat) : extract w lo width = v :=
  BitVec.eq_of_toNat_eq (by rw [toNat_extract, h])

theorem toNat_encodeCond (i : BitVec 19) (o0 : BitVec 1) (c : BitVec 4) :
    (encodeCond i o0 c).toNat = 0b0101010 * 2 ^ 25 + i.toNat * 2 ^ 5 + o0.toNat * 2 ^ 4 + c.toNat := by
  simp only [encodeCond, toNat_append_eq]; simp; ring

theorem toNat_encodeUncondImm (op : BitVec 1) (i : BitVec 26) :
    (encodeUncondImm op i).toNat = op.toNat * 2 ^ 31 + 0b00101 * 2 ^ 26 + i.toNat := by
  simp only [encodeUncondImm, toNat_append_eq]; simp; ring

theorem toNat_encodeTest (b5 : Bool) (op : BitVec 1) (b40 : BitVec 5) (i : BitVec 14) (rt : BitVec 5) :
    (encodeTest b5 op b40 i rt).toNat =
      b5.toNat * 2 ^ 31 + 0b011011 * 2 ^ 25 + op.toNat * 2 ^ 24 + b40.toNat * 2 ^ 19 + i.toNat * 2 ^ 5 + rt.toNat := by
  simp only [encodeTest, toNat_append_eq]; simp; ring

theorem toNat_encodeCompare (sf : Bool) (op : BitVec 1) (i : BitVec 19) (rt : BitVec 5) :
    (encodeCompare sf op i rt).toNat =
      sf.toNat * 2 ^ 31 + 0b011010 * 2 ^ 25 + op.toNat * 2 ^ 24 + i.toNat * 2 ^ 5 + rt.toNat := by
  simp only [encodeCompare, toNat_append_eq]; simp; ring

theorem toNat_encodeRegIndirect (opc : BitVec 4) (op3 : BitVec 6) (rn op4 : BitVec 5) :
    (encodeRegIndirect opc op3 rn op4).toNat =
      0b1101011 * 2 ^ 25 + opc.toNat * 2 ^ 21 + 0b11111 * 2 ^ 16 + op3.toNat * 2 ^ 10 + rn.toNat * 2 ^ 5 + op4.toNat := by
  simp only [encodeRegIndirect, toNat_append_eq]; simp; ring

section RegIndirect

variable (opc : BitVec 4) (op3 : BitVec 6) (rn op4 : BitVec 5)

@[simp] theorem encodeRegIndirect_group : extract (encodeRegIndirect opc op3 rn op4) 25 7 = 0b1101011#7 :=
  extract_eq_of_toNat (by
    have := opc.isLt; have := op3.isLt; have := rn.isLt; have := op4.isLt
    rw [toNat_encodeRegIndirect]; simp; omega)

@[simp] theorem encodeRegIndirect_opc : extract (encodeRegIndirect opc op3 rn op4) 21 4 = opc :=
  extract_eq_of_toNat (by
    have := opc.isLt; have := op3.isLt; have := rn.isLt; have := op4.isLt
    rw [toNat_encodeRegIndirect]; omega)

@[simp] theorem encodeRegIndirect_op2 : extract (encodeRegIndirect opc op3 rn op4) 16 5 = 0b11111#5 :=
  extract_eq_of_toNat (by
    have := opc.isLt; have := op3.isLt; have := rn.isLt; have := op4.isLt
    rw [toNat_encodeRegIndirect]; simp; omega)

@[simp] theorem encodeRegIndirect_op3 : extract (encodeRegIndirect opc op3 rn op4) 10 6 = op3 :=
  extract_eq_of_toNat (by
    have := opc.isLt; have := op3.isLt; have := rn.isLt; have := op4.isLt
    rw [toNat_encodeRegIndirect]; omega)

@[simp] theorem encodeRegIndirect_rn : extract (encodeRegIndirect opc op3 rn op4) 5 5 = rn :=
  extract_eq_of_toNat (by
    have := opc.isLt; have := op3.isLt; have := rn.isLt; have := op4.isLt
    rw [toNat_encodeRegIndirect]; omega)

@[simp] theorem encodeRegIndirect_op4 : extract (encodeRegIndirect opc op3 rn op4) 0 5 = op4 :=
  extract_eq_of_toNat (by
    have := opc.isLt; have := op3.isLt; have := rn.isLt; have := op4.isLt
    rw [toNat_encodeRegIndirect]; omega)

@[simp] theorem encodeRegIndirect_opcHigh : extract (encodeRegIndirect opc op3 rn op4) 24 1 = opc.extractLsb' 3 1 :=
  extract_eq_of_toNat (by
    have := opc.isLt; have := op3.isLt; have := rn.isLt; have := op4.isLt
    rw [toNat_encodeRegIndirect, BitVec.extractLsb'_toNat, Nat.shiftRight_eq_div_pow]; omega)

@[simp] theorem encodeRegIndirect_opcLow : extract (encodeRegIndirect opc op3 rn op4) 21 3 = opc.extractLsb' 0 3 :=
  extract_eq_of_toNat (by
    have := opc.isLt; have := op3.isLt; have := rn.isLt; have := op4.isLt
    rw [toNat_encodeRegIndirect, BitVec.extractLsb'_toNat, Nat.shiftRight_eq_div_pow]; omega)

end RegIndirect

section Cond

variable (i : BitVec 19) (o0 : BitVec 1) (c : BitVec 4)

@[simp] theorem encodeCond_group : extract (encodeCond i o0 c) 25 7 = 0b0101010#7 :=
  extract_eq_of_toNat (by
    have := i.isLt; have := o0.isLt; have := c.isLt
    rw [toNat_encodeCond]; simp; omega)

@[simp] theorem encodeCond_o1 : testBit (encodeCond i o0 c) 24 = false := by
  have := i.isLt; have := o0.isLt; have := c.isLt
  rw [← Bool.not_eq_true, testBit_iff, toNat_encodeCond]; omega

@[simp] theorem encodeCond_o0 : testBit (encodeCond i o0 c) 4 = (o0 == 1) := by
  have := i.isLt; have := o0.isLt; have := c.isLt
  rw [Bool.eq_iff_iff, testBit_iff, toNat_encodeCond, beq_iff_eq, ← BitVec.toNat_inj]; simp; omega

@[simp] theorem encodeCond_imm19 : extract (encodeCond i o0 c) 5 19 = i :=
  extract_eq_of_toNat (by
    have := i.isLt; have := o0.isLt; have := c.isLt
    rw [toNat_encodeCond]; omega)

@[simp] theorem encodeCond_cond : extract (encodeCond i o0 c) 0 4 = c :=
  extract_eq_of_toNat (by
    have := i.isLt; have := o0.isLt; have := c.isLt
    rw [toNat_encodeCond]; omega)

@[simp] theorem encodeCond_o1Field : extract (encodeCond i o0 c) 24 1 = 0 :=
  extract_eq_of_toNat (by
    have := i.isLt; have := o0.isLt; have := c.isLt
    rw [toNat_encodeCond]; simp; omega)

@[simp] theorem encodeCond_o0Field : extract (encodeCond i o0 c) 4 1 = o0 :=
  extract_eq_of_toNat (by
    have := i.isLt; have := o0.isLt; have := c.isLt
    rw [toNat_encodeCond]; omega)

end Cond

section UncondImm

variable (op : BitVec 1) (i : BitVec 26)

@[simp] theorem encodeUncondImm_group : extract (encodeUncondImm op i) 26 5 = 0b00101#5 :=
  extract_eq_of_toNat (by
    have := i.isLt; have := op.isLt
    rw [toNat_encodeUncondImm]; simp; omega)

@[simp] theorem encodeUncondImm_op : testBit (encodeUncondImm op i) 31 = (op == 1) := by
  have := i.isLt; have := op.isLt
  rw [Bool.eq_iff_iff, testBit_iff, toNat_encodeUncondImm, beq_iff_eq, ← BitVec.toNat_inj]; simp; omega

@[simp] theorem encodeUncondImm_imm26 : extract (encodeUncondImm op i) 0 26 = i :=
  extract_eq_of_toNat (by
    have := i.isLt; have := op.isLt
    rw [toNat_encodeUncondImm]; omega)

@[simp] theorem encodeUncondImm_opField : extract (encodeUncondImm op i) 31 1 = op :=
  extract_eq_of_toNat (by
    have := i.isLt; have := op.isLt
    rw [toNat_encodeUncondImm]; omega)

end UncondImm

section Test

variable (b5 : Bool) (op : BitVec 1) (b40 : BitVec 5) (i : BitVec 14) (rt : BitVec 5)

@[simp] theorem encodeTest_group : extract (encodeTest b5 op b40 i rt) 25 6 = 0b011011#6 :=
  extract_eq_of_toNat (by
    have := op.isLt; have := b40.isLt; have := i.isLt; have := rt.isLt; have := b5.toNat_lt
    rw [toNat_encodeTest]; simp; omega)

@[simp] theorem encodeTest_b5 : testBit (encodeTest b5 op b40 i rt) 31 = b5 := by
  have := op.isLt; have := b40.isLt; have := i.isLt; have := rt.isLt
  rw [Bool.eq_iff_iff, testBit_iff, toNat_encodeTest]; cases b5 <;> simp <;> omega

@[simp] theorem encodeTest_op : testBit (encodeTest b5 op b40 i rt) 24 = (op == 1) := by
  have := op.isLt; have := b40.isLt; have := i.isLt; have := rt.isLt; have := b5.toNat_lt
  rw [Bool.eq_iff_iff, testBit_iff, toNat_encodeTest, beq_iff_eq, ← BitVec.toNat_inj]; simp; omega

@[simp] theorem encodeTest_b40 : extract (encodeTest b5 op b40 i rt) 19 5 = b40 :=
  extract_eq_of_toNat (by
    have := op.isLt; have := b40.isLt; have := i.isLt; have := rt.isLt; have := b5.toNat_lt
    rw [toNat_encodeTest]; omega)

@[simp] theorem encodeTest_imm14 : extract (encodeTest b5 op b40 i rt) 5 14 = i :=
  extract_eq_of_toNat (by
    have := op.isLt; have := b40.isLt; have := i.isLt; have := rt.isLt; have := b5.toNat_lt
    rw [toNat_encodeTest]; omega)

@[simp] theorem encodeTest_rt : extract (encodeTest b5 op b40 i rt) 0 5 = rt :=
  extract_eq_of_toNat (by
    have := op.isLt; have := b40.isLt; have := i.isLt; have := rt.isLt; have := b5.toNat_lt
    rw [toNat_encodeTest]; omega)

@[simp] theorem encodeTest_b5Field : extract (encodeTest b5 op b40 i rt) 31 1 = BitVec.ofBool b5 :=
  extract_eq_of_toNat (by
    have := op.isLt; have := b40.isLt; have := i.isLt; have := rt.isLt; have := b5.toNat_lt
    rw [toNat_encodeTest, BitVec.toNat_ofBool]; omega)

@[simp] theorem encodeTest_opField : extract (encodeTest b5 op b40 i rt) 24 1 = op :=
  extract_eq_of_toNat (by
    have := op.isLt; have := b40.isLt; have := i.isLt; have := rt.isLt; have := b5.toNat_lt
    rw [toNat_encodeTest]; omega)

end Test

section Compare

variable (sf : Bool) (op : BitVec 1) (i : BitVec 19) (rt : BitVec 5)

@[simp] theorem encodeCompare_group : extract (encodeCompare sf op i rt) 25 6 = 0b011010#6 :=
  extract_eq_of_toNat (by
    have := op.isLt; have := i.isLt; have := rt.isLt; have := sf.toNat_lt
    rw [toNat_encodeCompare]; simp; omega)

@[simp] theorem encodeCompare_sf : testBit (encodeCompare sf op i rt) 31 = sf := by
  have := op.isLt; have := i.isLt; have := rt.isLt
  rw [Bool.eq_iff_iff, testBit_iff, toNat_encodeCompare]; cases sf <;> simp <;> omega

@[simp] theorem encodeCompare_op : testBit (encodeCompare sf op i rt) 24 = (op == 1) := by
  have := op.isLt; have := i.isLt; have := rt.isLt; have := sf.toNat_lt
  rw [Bool.eq_iff_iff, testBit_iff, toNat_encodeCompare, beq_iff_eq, ← BitVec.toNat_inj]; simp; omega

@[simp] theorem encodeCompare_imm19 : extract (encodeCompare sf op i rt) 5 19 = i :=
  extract_eq_of_toNat (by
    have := op.isLt; have := i.isLt; have := rt.isLt; have := sf.toNat_lt
    rw [toNat_encodeCompare]; omega)

@[simp] theorem encodeCompare_rt : extract (encodeCompare sf op i rt) 0 5 = rt :=
  extract_eq_of_toNat (by
    have := op.isLt; have := i.isLt; have := rt.isLt; have := sf.toNat_lt
    rw [toNat_encodeCompare]; omega)

@[simp] theorem encodeCompare_sfField : extract (encodeCompare sf op i rt) 31 1 = BitVec.ofBool sf :=
  extract_eq_of_toNat (by
    have := op.isLt; have := i.isLt; have := rt.isLt; have := sf.toNat_lt
    rw [toNat_encodeCompare, BitVec.toNat_ofBool]; omega)

@[simp] theorem encodeCompare_opField : extract (encodeCompare sf op i rt) 24 1 = op :=
  extract_eq_of_toNat (by
    have := op.isLt; have := i.isLt; have := rt.isLt; have := sf.toNat_lt
    rw [toNat_encodeCompare]; omega)

end Compare

/-- The bytes of a word, assembled in the order of R51, are the word. -/
theorem wordOfBytes_bytes (w : Word) :
    wordOfBytes (w.extractLsb' 0 8) (w.extractLsb' 8 8) (w.extractLsb' 16 8) (w.extractLsb' 24 8) = w := by
  apply BitVec.eq_of_toNat_eq
  simp only [wordOfBytes, toNat_append_eq, BitVec.extractLsb'_toNat, Nat.shiftRight_eq_div_pow]
  have := w.isLt
  omega

end Sys2Proof
end

