-- ==== Sys2Proof/Laws/State.lean ====
section
/-! SUPPORT. One lemma per field and per update of State (present, drive), and of the ports a result drives. -/

namespace Sys2Proof.Machine

variable (s : State) (g : GrpCode) (w : Word) (r : Result)

@[simp] theorem State.present_grp : (s.present g w).grp = g := rfl
@[simp] theorem State.present_word : (s.present g w).word = w := rfl
@[simp] theorem State.present_out : (s.present g w).out = s.out := rfl
@[simp] theorem State.drive_grp : (s.drive r).grp = s.grp := rfl
@[simp] theorem State.drive_word : (s.drive r).word = s.word := rfl
@[simp] theorem State.drive_out : (s.drive r).out = OutPorts.ofResult r := rfl

/-- The last value driven is the one that stands: nothing of an earlier output is left. -/
@[simp] theorem State.drive_drive (r' : Result) : (s.drive r).drive r' = s.drive r' := rfl

/-- The host's presentation and the block's outputs touch different ports. -/
theorem State.drive_present : (s.present g w).drive r = (s.drive r).present g w := rfl

/-- `emit` answers a next state, always: the state with the record on its outputs. -/
theorem emit_eq_next (d : DecodedInstr) : emit d s = .next (s.drive (.ok d)) := rfl

/-- `raiseDecodeError` answers a next state, always: the state with the error on its outputs. -/
theorem raiseDecodeError_eq_next (e : DecodeError) : raiseDecodeError e s = .next (s.drive (.error e)) := rfl

end Sys2Proof.Machine

namespace Sys2Proof

variable (d : DecodedInstr) (e : DecodeError)

@[simp] theorem OutPorts.ofResult_ok : OutPorts.ofResult (.ok d) = OutPorts.ofInstr d := rfl
@[simp] theorem OutPorts.ofResult_error : OutPorts.ofResult (.error e) = OutPorts.ofError e := rfl
@[simp] theorem OutPorts.ofInstr_ok : (OutPorts.ofInstr d).ok = true := rfl
@[simp] theorem OutPorts.ofInstr_mnem : (OutPorts.ofInstr d).mnem = d.mnemonic.code := rfl
@[simp] theorem OutPorts.ofInstr_hasCond : (OutPorts.ofInstr d).hasCond = d.cond.isSome := rfl
@[simp] theorem OutPorts.ofInstr_cond : (OutPorts.ofInstr d).cond = d.cond.getD 0 := rfl
@[simp] theorem OutPorts.ofInstr_slot0 : (OutPorts.ofInstr d).slot0 = d.slot0.ports := rfl
@[simp] theorem OutPorts.ofInstr_slot1 : (OutPorts.ofInstr d).slot1 = d.slot1.ports := rfl
@[simp] theorem OutPorts.ofInstr_slot2 : (OutPorts.ofInstr d).slot2 = d.slot2.ports := rfl
@[simp] theorem OutPorts.ofInstr_category : (OutPorts.ofInstr d).category = d.category.code := rfl
@[simp] theorem OutPorts.ofInstr_errKind : (OutPorts.ofInstr d).errKind = 0 := rfl
@[simp] theorem OutPorts.ofInstr_errField : (OutPorts.ofInstr d).errField = 0 := rfl
@[simp] theorem OutPorts.ofInstr_errValue : (OutPorts.ofInstr d).errValue = 0 := rfl
@[simp] theorem OutPorts.ofError_ok : (OutPorts.ofError e).ok = false := rfl
@[simp] theorem OutPorts.ofError_errKind : (OutPorts.ofError e).errKind = e.kind.code := rfl
@[simp] theorem OutPorts.ofError_errField : (OutPorts.ofError e).errField = e.field.code := rfl
@[simp] theorem OutPorts.ofError_errValue : (OutPorts.ofError e).errValue = e.value := rfl

end Sys2Proof
end

