-- ==== Sys2Proof/Laws/Exec.lean ====
section
/-! SUPPORT. What a meaning and a step can do, said once: every later proof cites these and unfolds neither. -/

namespace Sys2Proof.Machine

/-- Every meaning drives the instruction's record, and nothing else. -/
theorem exec_eq (i : Instr) (s : State) : exec i s = .next (s.drive (.ok i.record)) := by
  cases i <;> rfl

/-- Inside the contract a step drives the result of the block's function on the two inputs. -/
theorem step_of_group {s : State} {g : EncGroup} (h : EncGroup.ofCode s.grp = some g) :
    step s = .next (s.drive (Result.ofDecode (decode g s.word))) := by
  unfold step decode
  rw [h]
  dsimp only
  cases decodeInstr g s.word with
  | ok i => exact exec_eq i s
  | error e => rfl

/-- Outside the contract a step refuses by name. -/
theorem step_of_no_group {s : State} (h : EncGroup.ofCode s.grp = none) :
    step s = .refused (.grpOutsideContract s.grp) := by
  unfold step
  rw [h]

/-- The inversion of a step: a next state is the old one with the outputs driven. -/
theorem step_next_cases {s t : State} (h : step s = .next t) :
    ∃ g, EncGroup.ofCode s.grp = some g ∧ t = s.drive (Result.ofDecode (decode g s.word)) := by
  cases hg : EncGroup.ofCode s.grp with
  | none => rw [step_of_no_group hg] at h; cases h
  | some g =>
    rw [step_of_group hg] at h
    injection h with h
    exact ⟨g, rfl, h.symm⟩

/-- A code names a group exactly when it is below 5. -/
theorem ofCode_isSome_iff (c : GrpCode) : (EncGroup.ofCode c).isSome ↔ c.toNat ≤ 4 := by
  revert c; decide

/-- The code of a group names it. -/
@[simp] theorem ofCode_code (g : EncGroup) : EncGroup.ofCode g.code = some g := by
  cases g <;> rfl

/-- A session of one more input, when its step answers. -/
theorem session_cons_of_step {g : GrpCode} {w : Word} {rest : List (GrpCode × Word)} {s t : State}
    (h : step (s.present g w) = .next t) :
    session ((g, w) :: rest) s = withOutput t.out (session rest t) := by
  simp only [session, h]

/-- A session that answers had its first step answer. -/
theorem session_cons_next {g : GrpCode} {w : Word} {rest : List (GrpCode × Word)} {s u : State} {outs : List OutPorts}
    (h : session ((g, w) :: rest) s = .next (outs, u)) :
    ∃ t outs', step (s.present g w) = .next t ∧ session rest t = .next (outs', u) ∧ outs = t.out :: outs' := by
  rw [session] at h
  split at h
  · rename_i t ht
    cases hr : session rest t with
    | next p =>
      obtain ⟨o, v⟩ := p
      rw [hr] at h
      simp only [withOutput, Host.Outcome.next.injEq, Prod.mk.injEq] at h
      obtain ⟨rfl, rfl⟩ := h
      exact ⟨t, o, ht, hr, rfl⟩
    | fault f => rw [hr] at h; cases h
    | refused r => rw [hr] at h; cases h
  · cases h
  · cases h

end Sys2Proof.Machine

namespace Sys2Proof

/-- A decoded record is the record of a decoded instruction. -/
theorem decode_eq_ok_iff {g : EncGroup} {w : Word} {r : DecodedInstr} :
    decode g w = .ok r ↔ ∃ i, decodeInstr g w = .ok i ∧ i.record = r := by
  unfold decode
  cases decodeInstr g w <;> simp

/-- The block's errors are the decoders'. -/
theorem decode_eq_error_iff {g : EncGroup} {w : Word} {e : DecodeError} :
    decode g w = .error e ↔ decodeInstr g w = .error e := by
  unfold decode
  cases decodeInstr g w <;> simp

/-- Equal instructions give equal records. -/
theorem decode_congr {g : EncGroup} {w w' : Word} (h : decodeInstr g w = decodeInstr g w') :
    decode g w = decode g w' := by
  unfold decode; rw [h]

end Sys2Proof
end

