-- ==== Sys2Proof/Laws/Decode.lean ====
section
/-! SUPPORT. The register-indirect decoder by the fields of its word, and the observed values of its errors as
concatenations of the fields. -/

namespace Sys2Proof

variable {w : Word} {opc : BitVec 4} {op2 : BitVec 5} {op3 : BitVec 6} {rn op4 : BitVec 5}

/-- With op2 all ones the opc selects the family. -/
theorem decodeInstr_of_fields (h : RegIndirectFields w opc 0b11111#5 op3 rn op4) :
    decodeInstr .regIndirect w = selectFamily opc 0b11111#5 op3 rn op4 := by
  obtain ⟨rfl, h2, rfl, rfl, rfl⟩ := h
  simp only [decodeInstr, decodeRegIndirect]
  rw [show extract w 16 5 = 0b11111#5 from h2]
  rfl

/-- Any other op2 is the error of R181. -/
theorem decodeInstr_of_op2_ne (h : RegIndirectFields w opc op2 op3 rn op4) (h2 : op2 ≠ 0b11111#5) :
    decodeInstr .regIndirect w = .error (malformed .op2 op2) := by
  obtain ⟨-, rfl, -, -, -⟩ := h
  simp only [decodeInstr, decodeRegIndirect]
  exact if_pos h2

/-- Every word has its fields. -/
theorem regIndirectFields_self (w : Word) :
    RegIndirectFields w (w.extractLsb' 21 4) (w.extractLsb' 16 5) (w.extractLsb' 10 6) (w.extractLsb' 5 5)
      (w.extractLsb' 0 5) :=
  ⟨rfl, rfl, rfl, rfl, rfl⟩

/-! ### The dispatcher's five patterns exclude one another (R78) -/

theorem routeGroup_of_cond {w : Word} (h : extract w 25 7 = 0b0101010#7) : routeGroup w = some .cond := by
  simp [routeGroup, h]

theorem routeGroup_of_uncondImm {w : Word} (h : extract w 26 5 = 0b00101#5) : routeGroup w = some .uncondImm := by
  have h1 : extract w 25 7 ≠ 0b0101010#7 := by
    rw [ne_eq, ← BitVec.toNat_inj, toNat_extract] at *
    simp at *; omega
  simp [routeGroup, h, h1]

theorem routeGroup_of_test {w : Word} (h : extract w 25 6 = 0b011011#6) : routeGroup w = some .test := by
  have h1 : extract w 25 7 ≠ 0b0101010#7 ∧ extract w 26 5 ≠ 0b00101#5 := by
    simp only [ne_eq, ← BitVec.toNat_inj, toNat_extract] at *
    simp at *; omega
  simp [routeGroup, h, h1]

theorem routeGroup_of_compare {w : Word} (h : extract w 25 6 = 0b011010#6) : routeGroup w = some .compare := by
  have h1 : extract w 25 7 ≠ 0b0101010#7 ∧ extract w 26 5 ≠ 0b00101#5 := by
    simp only [ne_eq, ← BitVec.toNat_inj, toNat_extract] at *
    simp at *; omega
  simp [routeGroup, h, h1]

theorem routeGroup_of_regIndirect {w : Word} (h : extract w 25 7 = 0b1101011#7) :
    routeGroup w = some .regIndirect := by
  have h1 : extract w 26 5 ≠ 0b00101#5 ∧ extract w 25 6 ≠ 0b011011#6 ∧ extract w 25 6 ≠ 0b011010#6 := by
    simp only [ne_eq, ← BitVec.toNat_inj, toNat_extract] at *
    simp at *; omega
  simp [routeGroup, h, h1]

/-! ### The observed values -/

theorem malformed_five (f : ErrorField) (v : BitVec 5) :
    malformed f v = ⟨.malformedFixedField, f, 0#11 ++ v⟩ := by
  simp only [malformed, DecodeError.mk.injEq, true_and]
  revert v; decide

theorem unallocated_opc (f : ErrorField) (v : BitVec 4) :
    unallocated f v = ⟨.unallocatedEncoding, f, 0#12 ++ v⟩ := by
  simp only [unallocated, DecodeError.mk.injEq, true_and]
  revert v; decide

theorem unallocated_op3 (f : ErrorField) (v : BitVec 6) :
    unallocated f v = ⟨.unallocatedEncoding, f, 0#10 ++ v⟩ := by
  simp only [unallocated, DecodeError.mk.injEq, true_and]
  revert v; decide

/-- Shifting fields apart and joining them is concatenation. -/
theorem packOpcOp3Op4_eq (a : BitVec 4) (b : BitVec 6) (c : BitVec 5) :
    packOpcOp3Op4 a b c = 0#1 ++ a ++ b ++ c := by
  apply BitVec.eq_of_getLsbD_eq
  intro j hj
  simp only [packOpcOp3Op4, BitVec.getLsbD_or, BitVec.getLsbD_shiftLeft, BitVec.getLsbD_setWidth,
    BitVec.getLsbD_append]
  interval_cases j <;> simp

theorem packOp3RnOp4_eq (a : BitVec 6) (b c : BitVec 5) :
    packOp3RnOp4 a b c = a ++ b ++ c := by
  apply BitVec.eq_of_getLsbD_eq
  intro j hj
  simp only [packOp3RnOp4, BitVec.getLsbD_or, BitVec.getLsbD_shiftLeft, BitVec.getLsbD_setWidth,
    BitVec.getLsbD_append]
  interval_cases j <;> simp

end Sys2Proof
end

