-- ==== Sys2Proof/Laws/Fields.lean ====
section
/-! SUPPORT. A word is its fields: for the format of each group, two words are equal when all their fields are, and a
masked equation is the masked equations of the fields (R73 to R77). -/

namespace Sys2Proof

/-- A field of a masked word is the masked field. -/
@[simp] theorem extract_and (a b : Word) (lo width : Nat) :
    extract (a &&& b) lo width = extract a lo width &&& extract b lo width := by
  simp [extract, BitVec.extractLsb'_and]

/-- A one-bit field is the bit. -/
theorem extract_one (w : Word) (n : Nat) : extract w n 1 = BitVec.ofBool (testBit w n) := by
  apply BitVec.eq_of_toNat_eq
  have h := testBit_iff w n
  rw [toNat_extract]
  cases hb : testBit w n <;> simp [hb] at h ⊢ <;> omega

/-- A bit of a word as an equation on its one-bit field. -/
theorem testBit_eq_iff (w : Word) (n : Nat) (b : Bool) :
    testBit w n = b ↔ extract w n 1 = BitVec.ofBool b := by
  rw [extract_one]; cases testBit w n <;> cases b <;> decide

theorem eq_iff_condFields (a b : Word) : a = b ↔
    extract a 25 7 = extract b 25 7 ∧ extract a 24 1 = extract b 24 1 ∧ extract a 5 19 = extract b 5 19 ∧
    extract a 4 1 = extract b 4 1 ∧ extract a 0 4 = extract b 0 4 := by
  constructor
  · rintro rfl; simp
  · simp only [← BitVec.toNat_inj, toNat_extract]
    have := a.isLt; have := b.isLt
    omega

theorem eq_iff_uncondImmFields (a b : Word) : a = b ↔
    extract a 31 1 = extract b 31 1 ∧ extract a 26 5 = extract b 26 5 ∧ extract a 0 26 = extract b 0 26 := by
  constructor
  · rintro rfl; simp
  · simp only [← BitVec.toNat_inj, toNat_extract]
    have := a.isLt; have := b.isLt
    omega

theorem eq_iff_testFields (a b : Word) : a = b ↔
    extract a 31 1 = extract b 31 1 ∧ extract a 25 6 = extract b 25 6 ∧ extract a 24 1 = extract b 24 1 ∧
    extract a 19 5 = extract b 19 5 ∧ extract a 5 14 = extract b 5 14 ∧ extract a 0 5 = extract b 0 5 := by
  constructor
  · rintro rfl; simp
  · simp only [← BitVec.toNat_inj, toNat_extract]
    have := a.isLt; have := b.isLt
    omega

theorem eq_iff_compareFields (a b : Word) : a = b ↔
    extract a 31 1 = extract b 31 1 ∧ extract a 25 6 = extract b 25 6 ∧ extract a 24 1 = extract b 24 1 ∧
    extract a 5 19 = extract b 5 19 ∧ extract a 0 5 = extract b 0 5 := by
  constructor
  · rintro rfl; simp
  · simp only [← BitVec.toNat_inj, toNat_extract]
    have := a.isLt; have := b.isLt
    omega

/-- The register-indirect format, its opc field in two parts: bit 24, which the BL family does not read, and the rest. -/
theorem eq_iff_regIndirectFields (a b : Word) : a = b ↔
    extract a 25 7 = extract b 25 7 ∧ extract a 24 1 = extract b 24 1 ∧ extract a 21 3 = extract b 21 3 ∧
    extract a 16 5 = extract b 16 5 ∧ extract a 10 6 = extract b 10 6 ∧ extract a 5 5 = extract b 5 5 ∧
    extract a 0 5 = extract b 0 5 := by
  constructor
  · rintro rfl; simp
  · simp only [← BitVec.toNat_inj, toNat_extract]
    have := a.isLt; have := b.isLt
    omega

/-- The opc field from its two parts. -/
theorem extract_opc (w : Word) : extract w 21 4 = extract w 24 1 ++ extract w 21 3 := by
  apply BitVec.eq_of_toNat_eq
  simp only [toNat_append_eq, toNat_extract]
  omega

end Sys2Proof
end

