-- ==== Sys2Proof/Laws/PerInstr.lean ====
section
/-! SUPPORT. Facts about every instruction as syntax, one lemma per constructor. EncodeFitsTable: the word the encoder
writes for a well-formed instruction has the pattern of its row of spec/opcode_table.json. -/

namespace Sys2Proof.Laws

/-- A five-bit mask of ones changes nothing. -/
theorem and_ones (v : BitVec 5) : v &&& 31#5 = v := by
  revert v; decide

/-- The row of the opcode table selects the instruction's own word. -/
def EncodeFitsTable.Statement (i : Instr) : Prop :=
  i.wellFormed = true → i.row.group = i.group ∧ i.row.selects (encode i) = true

theorem EncodeFitsTable.bCond (imm19 cond) : EncodeFitsTable.Statement (.bCond imm19 cond) := by
  intro h
  simp [Instr.wellFormed, Instr.row, Instr.group, TableRow.group, TableRow.selects, TableRow.constraint, encode,
    TableRow.blockMask, TableRow.blockMatch, eq_iff_condFields] at h ⊢
  simp [extract]

theorem EncodeFitsTable.bcCond (imm19 cond) : EncodeFitsTable.Statement (.bcCond imm19 cond) := by
  intro h
  simp [Instr.wellFormed, Instr.row, Instr.group, TableRow.group, TableRow.selects, TableRow.constraint, encode,
    TableRow.blockMask, TableRow.blockMatch, eq_iff_condFields] at h ⊢
  simp [extract]

theorem EncodeFitsTable.b (imm26) : EncodeFitsTable.Statement (.b imm26) := by
  intro h
  simp [Instr.wellFormed, Instr.row, Instr.group, TableRow.group, TableRow.selects, TableRow.constraint, encode,
    TableRow.blockMask, TableRow.blockMatch, eq_iff_uncondImmFields] at h ⊢
  simp [extract]

theorem EncodeFitsTable.bl (imm26) : EncodeFitsTable.Statement (.bl imm26) := by
  intro h
  simp [Instr.wellFormed, Instr.row, Instr.group, TableRow.group, TableRow.selects, TableRow.constraint, encode,
    TableRow.blockMask, TableRow.blockMatch, eq_iff_uncondImmFields] at h ⊢
  simp [extract]

theorem EncodeFitsTable.tbz (b5 b40 imm14 rt) : EncodeFitsTable.Statement (.tbz b5 b40 imm14 rt) := by
  intro h
  simp [Instr.wellFormed, Instr.row, Instr.group, TableRow.group, TableRow.selects, TableRow.constraint, encode,
    TableRow.blockMask, TableRow.blockMatch, eq_iff_testFields] at h ⊢
  simp [extract]

theorem EncodeFitsTable.tbnz (b5 b40 imm14 rt) : EncodeFitsTable.Statement (.tbnz b5 b40 imm14 rt) := by
  intro h
  simp [Instr.wellFormed, Instr.row, Instr.group, TableRow.group, TableRow.selects, TableRow.constraint, encode,
    TableRow.blockMask, TableRow.blockMatch, eq_iff_testFields] at h ⊢
  simp [extract]

theorem EncodeFitsTable.cbz (sf imm19 rt) : EncodeFitsTable.Statement (.cbz sf imm19 rt) := by
  intro h
  simp [Instr.wellFormed, Instr.row, Instr.group, TableRow.group, TableRow.selects, TableRow.constraint, encode,
    TableRow.blockMask, TableRow.blockMatch, eq_iff_compareFields] at h ⊢
  simp [extract]

theorem EncodeFitsTable.cbnz (sf imm19 rt) : EncodeFitsTable.Statement (.cbnz sf imm19 rt) := by
  intro h
  simp [Instr.wellFormed, Instr.row, Instr.group, TableRow.group, TableRow.selects, TableRow.constraint, encode,
    TableRow.blockMask, TableRow.blockMatch, eq_iff_compareFields] at h ⊢
  simp [extract]

theorem EncodeFitsTable.br (rn) : EncodeFitsTable.Statement (.br rn) := by
  intro h
  simp [Instr.wellFormed, Instr.row, Instr.group, TableRow.group, TableRow.selects, TableRow.constraint, encode,
    TableRow.blockMask, TableRow.blockMatch, eq_iff_regIndirectFields] at h ⊢
  simp [extract]

theorem EncodeFitsTable.braaz (rn) : EncodeFitsTable.Statement (.braaz rn) := by
  intro h
  simp [Instr.wellFormed, Instr.row, Instr.group, TableRow.group, TableRow.selects, TableRow.constraint, encode,
    TableRow.blockMask, TableRow.blockMatch, eq_iff_regIndirectFields] at h ⊢
  simp [extract]

theorem EncodeFitsTable.brabz (rn) : EncodeFitsTable.Statement (.brabz rn) := by
  intro h
  simp [Instr.wellFormed, Instr.row, Instr.group, TableRow.group, TableRow.selects, TableRow.constraint, encode,
    TableRow.blockMask, TableRow.blockMatch, eq_iff_regIndirectFields] at h ⊢
  simp [extract]

theorem EncodeFitsTable.braa (rn op4) : EncodeFitsTable.Statement (.braa rn op4) := by
  intro h
  simp [Instr.wellFormed, Instr.row, Instr.group, TableRow.group, TableRow.selects, TableRow.constraint, encode,
    TableRow.blockMask, TableRow.blockMatch, eq_iff_regIndirectFields] at h ⊢
  simp [extract]

theorem EncodeFitsTable.brab (rn op4) : EncodeFitsTable.Statement (.brab rn op4) := by
  intro h
  simp [Instr.wellFormed, Instr.row, Instr.group, TableRow.group, TableRow.selects, TableRow.constraint, encode,
    TableRow.blockMask, TableRow.blockMatch, eq_iff_regIndirectFields] at h ⊢
  simp [extract]

theorem EncodeFitsTable.blr (rn) : EncodeFitsTable.Statement (.blr rn) := by
  intro h
  simp [Instr.wellFormed, Instr.row, Instr.group, TableRow.group, TableRow.selects, TableRow.constraint, encode,
    TableRow.blockMask, TableRow.blockMatch, eq_iff_regIndirectFields] at h ⊢
  simp [extract]

theorem EncodeFitsTable.blraaz (rn) : EncodeFitsTable.Statement (.blraaz rn) := by
  intro h
  simp [Instr.wellFormed, Instr.row, Instr.group, TableRow.group, TableRow.selects, TableRow.constraint, encode,
    TableRow.blockMask, TableRow.blockMatch, eq_iff_regIndirectFields] at h ⊢
  simp [extract]

theorem EncodeFitsTable.blraa (rn op4) : EncodeFitsTable.Statement (.blraa rn op4) := by
  intro h
  simp [Instr.wellFormed, Instr.row, Instr.group, TableRow.group, TableRow.selects, TableRow.constraint, encode,
    TableRow.blockMask, TableRow.blockMatch, eq_iff_regIndirectFields] at h ⊢
  simpa [extract, and_ones] using h

theorem EncodeFitsTable.blrabz (rn) : EncodeFitsTable.Statement (.blrabz rn) := by
  intro h
  simp [Instr.wellFormed, Instr.row, Instr.group, TableRow.group, TableRow.selects, TableRow.constraint, encode,
    TableRow.blockMask, TableRow.blockMatch, eq_iff_regIndirectFields] at h ⊢
  simp [extract]

theorem EncodeFitsTable.blrab (rn op4) : EncodeFitsTable.Statement (.blrab rn op4) := by
  intro h
  simp [Instr.wellFormed, Instr.row, Instr.group, TableRow.group, TableRow.selects, TableRow.constraint, encode,
    TableRow.blockMask, TableRow.blockMatch, eq_iff_regIndirectFields] at h ⊢
  simpa [extract, and_ones] using h

theorem EncodeFitsTable.ret (rn) : EncodeFitsTable.Statement (.ret rn) := by
  intro h
  simp [Instr.wellFormed, Instr.row, Instr.group, TableRow.group, TableRow.selects, TableRow.constraint, encode,
    TableRow.blockMask, TableRow.blockMatch, eq_iff_regIndirectFields] at h ⊢
  simp [extract]

theorem EncodeFitsTable.retaa : EncodeFitsTable.Statement (.retaa) := by
  intro h
  simp [Instr.wellFormed, Instr.row, Instr.group, TableRow.group, TableRow.selects, TableRow.constraint, encode,
    TableRow.blockMask, TableRow.blockMatch, eq_iff_regIndirectFields] at h ⊢
  simp [extract]

theorem EncodeFitsTable.retab : EncodeFitsTable.Statement (.retab) := by
  intro h
  simp [Instr.wellFormed, Instr.row, Instr.group, TableRow.group, TableRow.selects, TableRow.constraint, encode,
    TableRow.blockMask, TableRow.blockMatch, eq_iff_regIndirectFields] at h ⊢
  simp [extract]

theorem EncodeFitsTable.eret : EncodeFitsTable.Statement (.eret) := by
  intro h
  simp [Instr.wellFormed, Instr.row, Instr.group, TableRow.group, TableRow.selects, TableRow.constraint, encode,
    TableRow.blockMask, TableRow.blockMatch, eq_iff_regIndirectFields] at h ⊢
  simp [extract]

theorem EncodeFitsTable.eretaa : EncodeFitsTable.Statement (.eretaa) := by
  intro h
  simp [Instr.wellFormed, Instr.row, Instr.group, TableRow.group, TableRow.selects, TableRow.constraint, encode,
    TableRow.blockMask, TableRow.blockMatch, eq_iff_regIndirectFields] at h ⊢
  simp [extract]

theorem EncodeFitsTable.eretab : EncodeFitsTable.Statement (.eretab) := by
  intro h
  simp [Instr.wellFormed, Instr.row, Instr.group, TableRow.group, TableRow.selects, TableRow.constraint, encode,
    TableRow.blockMask, TableRow.blockMatch, eq_iff_regIndirectFields] at h ⊢
  simp [extract]

theorem EncodeFitsTable.drps : EncodeFitsTable.Statement (.drps) := by
  intro h
  simp [Instr.wellFormed, Instr.row, Instr.group, TableRow.group, TableRow.selects, TableRow.constraint, encode,
    TableRow.blockMask, TableRow.blockMatch, eq_iff_regIndirectFields] at h ⊢
  simp [extract]

end Sys2Proof.Laws
end

