-- ==== Sys2Proof/Laws/Ports.lean ====
section
/-! SUPPORT. The port codes read back, and the ports of an operand slot are legal. -/

namespace Sys2Proof

@[simp] theorem Mnemonic.ofCode_code (m : Mnemonic) : Mnemonic.ofCode m.code = some m := by
  cases m <;> rfl

@[simp] theorem Category.ofCode_code (c : Category) : Category.ofCode c.code = c := by
  cases c <;> rfl

@[simp] theorem ErrorKind.ofCode_code (k : ErrorKind) : ErrorKind.ofCode k.code = some k := by
  cases k <;> rfl

@[simp] theorem ErrorField.ofCode_code (f : ErrorField) : ErrorField.ofCode f.code = some f := by
  cases f <;> rfl

@[simp] theorem RegId.ofCode_code (r : RegId) : RegId.ofCode r.code = r := by
  obtain ⟨b, n⟩ := r
  revert b n; decide

@[simp] theorem Operand.ofPorts_ports (o : Operand) : Operand.ofPorts o.ports = o := by
  cases o <;> simp [Operand.ports, Operand.ofPorts]

/-- The codes 24 to 31 are no mnemonic's (R25). -/
theorem Mnemonic.code_le (m : Mnemonic) : m.code.toNat ≤ 23 := by
  cases m <;> decide

/-- A slot without an operand. -/
theorem SlotPorts.legal_none : (Operand.none.ports).Legal := by
  simp [SlotPorts.Legal, Operand.ports]

/-- A register slot. -/
theorem SlotPorts.legal_reg (r : RegId) : ((Operand.reg r).ports).Legal := by
  simp [SlotPorts.Legal, Operand.ports]

/-- A slot with a tested-bit index. -/
theorem SlotPorts.legal_imm {v : Imm} (h : v.toNat ≤ 63) : ((Operand.imm v).ports).Legal := by
  simp [SlotPorts.Legal, Operand.ports, h]

/-- A slot with the displacement of a field of at most 26 bits (R126). -/
theorem SlotPorts.legal_pcrel {n : Nat} (v : BitVec (n + 1)) (h : n ≤ 25) :
    ((Operand.pcrel (BitVec.ofInt 64 (4 * v.toInt))).ports).Legal := by
  have hb := four_mul_toInt_bounds v
  have hp : (2 : Int) ^ (n + 2) ≤ 2 ^ 27 := pow_le_pow_right₀ (by norm_num) (by omega)
  have hi := toInt_ofInt_four_mul v (by omega)
  refine ⟨by simp [Operand.ports], by simp [Operand.ports], by simp [Operand.ports], fun _ => ⟨rfl, ?_⟩⟩
  change 4 ∣ (BitVec.ofInt 64 (4 * v.toInt)).toInt ∧ _ ≤ (BitVec.ofInt 64 (4 * v.toInt)).toInt ∧
    (BitVec.ofInt 64 (4 * v.toInt)).toInt ≤ _
  rw [hi]
  exact ⟨Dvd.intro _ rfl, by omega, by omega⟩

/-- The ports of a decode error are legal. -/
theorem OutPorts.legalError_ofError (e : DecodeError) : (OutPorts.ofError e).LegalError := by
  obtain ⟨k, f, v⟩ := e
  refine ⟨?_, ?_, rfl⟩
  · cases k <;> simp [ErrorKind.code, OutPorts.ofError]
  · cases f <;> simp [ErrorField.code, OutPorts.ofError]

end Sys2Proof
end

