-- ==== Sys2Proof/Tests/Slice0.lean ====
section
/-! SUPPORT. Tests. Expected results are those of spec/95_test_vectors.md (V<n>, W<n>, P<n>) and of the rules' own
examples; the words of the decode tests are written out field by field from the formats R73 to R77 (and R78 for the
group bits). Each test is one decode or one step. -/

namespace Sys2Proof.Tests

open Sys2Proof Sys2Proof.Machine

/-- The state in which the host has presented a word under a group. -/
def presented (g : EncGroup) (w : Word) : State :=
  State.reset.present g.code w

/-- The result the host reads off the ports after a step. -/
def readBack : Host.Outcome State Fault Refusal → Option Result
  | .next t => t.out.toResult
  | .fault _ => none
  | .refused _ => none

/-- The output ports after a step. -/
def portsAfter : Host.Outcome State Fault Refusal → Option OutPorts
  | .next t => some t.out
  | .fault _ => none
  | .refused _ => none

/-- The reason a step was refused. -/
def refusalOf : Host.Outcome State Fault Refusal → Option Refusal
  | .next _ => none
  | .fault _ => none
  | .refused r => some r

/-! ### Ill-formed terms are refused -/

theorem test_wellFormed_blraa_op4 : (Instr.blraa 8 31).wellFormed = false := by decide

theorem test_wellFormed_blrab_op4 : (Instr.blrab 8 31).wellFormed = false := by decide

theorem test_wellFormed_braa_op4 : (Instr.braa 8 31).wellFormed = true := by decide

/-- R26 (d): a gap between slot 0 and slot 1. -/
theorem test_record_gap01 :
    (DecodedInstr.mk .cbz none .none (.pcrel 0) .none .conditionalBranch).wellFormed = false := by decide

/-- R26 (d): a gap between slot 1 and slot 2. -/
theorem test_record_gap12 :
    (DecodedInstr.mk .tbz none (.reg ⟨true, 0⟩) .none (.pcrel 0) .conditionalBranch).wellFormed = false := by decide

/-- R26 (b): a condition on a mnemonic that carries none. -/
theorem test_record_condOnBl : (DecodedInstr.mk .bl (some 0) (.pcrel 0) .none .none .branch).wellFormed = false := by
  decide

/-- R26 (b): `BC` without its condition. -/
theorem test_record_bcWithoutCond :
    (DecodedInstr.mk .bc none (.pcrel 0) .none .none .conditionalBranch).wellFormed = false := by decide

/-! ### Each constructor's decoding -/

/-- V2: imm19 largest, cond 15. -/
theorem test_decode_bCond :
    decodeTableWord 32 0b0101010_0_0111111111111111111_0_1111 = some (.bCond 0x3FFFF 15) := by
  decide

/-- V5: cond 14. -/
theorem test_decode_bcCond :
    decodeTableWord 32 0b0101010_0_0000000000000000000_1_1110 = some (.bcCond 0 14) := by
  decide

/-- V16: imm26 = 4. -/
theorem test_decode_b :
    decodeTableWord 32 0b0_00101_00000000000000000000000100 = some (.b 4) := by
  decide

/-- V13: imm26 all ones. -/
theorem test_decode_bl :
    decodeTableWord 32 0b1_00101_11111111111111111111111111 = some (.bl 0x3FFFFFF) := by
  decide

/-- V25: b5 = 1, b40 = 5. -/
theorem test_decode_tbz :
    decodeTableWord 32 0b1_011011_0_00101_00000000000000_00000 = some (.tbz true 5 0 0) := by
  decide

/-- V26. -/
theorem test_decode_tbnz :
    decodeTableWord 32 0b1_011011_1_00101_00000000000101_00011 = some (.tbnz true 5 5 3) := by
  decide

/-- V30: W(31). -/
theorem test_decode_cbz :
    decodeTableWord 32 0b0_011010_0_0000000000000000000_11111 = some (.cbz false 0 31) := by
  decide

/-- V31: X(31), imm19 all ones. -/
theorem test_decode_cbnz :
    decodeTableWord 32 0b1_011010_1_1111111111111111111_11111 = some (.cbnz true 0x7FFFF 31) := by
  decide

/-- V36. -/
theorem test_decode_br :
    decodeTableWord 32 0b1101011_0000_11111_000000_10000_00000 = some (.br 16) := by
  decide

/-- V37. -/
theorem test_decode_braaz :
    decodeTableWord 32 0b1101011_0000_11111_000010_10000_11111 = some (.braaz 16) := by
  decide

/-- V38. -/
theorem test_decode_brabz :
    decodeTableWord 32 0b1101011_0000_11111_000011_10000_11111 = some (.brabz 16) := by
  decide

/-- V39. -/
theorem test_decode_braa :
    decodeTableWord 32 0b1101011_1000_11111_000010_10000_10001 = some (.braa 16 17) := by
  decide

/-- V40. -/
theorem test_decode_brab :
    decodeTableWord 32 0b1101011_1000_11111_000011_10000_10001 = some (.brab 16 17) := by
  decide

/-- V48. -/
theorem test_decode_blr :
    decodeTableWord 32 0b1101011_0001_11111_000000_01000_00000 = some (.blr 8) := by
  decide

/-- V49. -/
theorem test_decode_blraaz :
    decodeTableWord 32 0b1101011_0001_11111_000010_01000_11111 = some (.blraaz 8) := by
  decide

/-- V51. -/
theorem test_decode_blraa :
    decodeTableWord 32 0b1101011_1001_11111_000010_01000_01001 = some (.blraa 8 9) := by
  decide

/-- V50. -/
theorem test_decode_blrabz :
    decodeTableWord 32 0b1101011_0001_11111_000011_01000_11111 = some (.blrabz 8) := by
  decide

/-- V52. -/
theorem test_decode_blrab :
    decodeTableWord 32 0b1101011_1001_11111_000011_01000_01001 = some (.blrab 8 9) := by
  decide

/-- V62. -/
theorem test_decode_ret :
    decodeTableWord 32 0b1101011_0010_11111_000000_11110_00000 = some (.ret 30) := by
  decide

/-- V65. -/
theorem test_decode_retaa :
    decodeTableWord 32 0b1101011_0010_11111_000010_11111_11111 = some (.retaa) := by
  decide

/-- V66. -/
theorem test_decode_retab :
    decodeTableWord 32 0b1101011_0010_11111_000011_11111_11111 = some (.retab) := by
  decide

/-- V73. -/
theorem test_decode_eret :
    decodeTableWord 32 0b1101011_0100_11111_000000_11111_00000 = some (.eret) := by
  decide

/-- V74. -/
theorem test_decode_eretaa :
    decodeTableWord 32 0b1101011_0100_11111_000010_11111_11111 = some (.eretaa) := by
  decide

/-- V75. -/
theorem test_decode_eretab :
    decodeTableWord 32 0b1101011_0100_11111_000011_11111_11111 = some (.eretab) := by
  decide

/-- V83. -/
theorem test_decode_drps :
    decodeTableWord 32 0b1101011_0101_11111_000000_11111_00000 = some (.drps) := by
  decide

/-! ### One step of each instruction, read back from the ports -/

/-- V6 (R140): cond 1, -16. -/
theorem test_step_bCond : readBack (step (presented .cond 0x54FFFF81#32)) = some (.ok ⟨.b, some 1, .pcrel (-16), .none, .none, .conditionalBranch⟩) := by
  decide

/-- V4 (R141): o0 = 1 with imm19 all ones: BC, -4, cond 15. -/
theorem test_step_bcCond : readBack (step (presented .cond 0x54FFFFFF#32)) = some (.ok ⟨.bc, some 15, .pcrel (-4), .none, .none, .conditionalBranch⟩) := by
  decide

/-- V12 (R150): largest backward displacement. -/
theorem test_step_b : readBack (step (presented .uncondImm 0x16000000#32)) = some (.ok ⟨.b, none, .pcrel (-134217728), .none, .none, .branch⟩) := by
  decide

/-- V14 (R151): BL, largest forward. -/
theorem test_step_bl : readBack (step (presented .uncondImm 0x95FFFFFF#32)) = some (.ok ⟨.bl, none, .pcrel 134217724, .none, .none, .branch⟩) := by
  decide

/-- V23 (R160): largest backward displacement. -/
theorem test_step_tbz : readBack (step (presented .test 0x36040000#32)) = some (.ok ⟨.tbz, none, .reg ⟨false, 0⟩, .imm 0, .pcrel (-32768), .conditionalBranch⟩) := by
  decide

/-- V21 (R161): b5 = 1, b40 = 31: bit 63, register X(31). -/
theorem test_step_tbnz : readBack (step (presented .test 0xB7F8001F#32)) = some (.ok ⟨.tbnz, none, .reg ⟨true, 31⟩, .imm 63, .pcrel 0, .conditionalBranch⟩) := by
  decide

/-- V29 (R170): largest backward displacement. -/
theorem test_step_cbz : readBack (step (presented .compare 0xB4800000#32)) = some (.ok ⟨.cbz, none, .reg ⟨true, 0⟩, .pcrel (-1048576), .none, .conditionalBranch⟩) := by
  decide

/-- V33 (R171): CBNZ W(1), -4. -/
theorem test_step_cbnz : readBack (step (presented .compare 0x35FFFFE1#32)) = some (.ok ⟨.cbnz, none, .reg ⟨false, 1⟩, .pcrel (-4), .none, .conditionalBranch⟩) := by
  decide

/-- V34 (R186): BR with rn = 31. -/
theorem test_step_br : readBack (step (presented .regIndirect 0xD61F03E0#32)) = some (.ok ⟨.br, none, .reg ⟨true, 31⟩, .none, .none, .branch⟩) := by
  decide

/-- V37 (R187): BRAAZ. -/
theorem test_step_braaz : readBack (step (presented .regIndirect 0xD61F0A1F#32)) = some (.ok ⟨.braaz, none, .reg ⟨true, 16⟩, .none, .none, .branch⟩) := by
  decide

/-- V38 (R188): BRABZ. -/
theorem test_step_brabz : readBack (step (presented .regIndirect 0xD61F0E1F#32)) = some (.ok ⟨.brabz, none, .reg ⟨true, 16⟩, .none, .none, .branch⟩) := by
  decide

/-- V41 (R189): BRAA with op4 = 31: modifier X(31), not BRAAZ. -/
theorem test_step_braa : readBack (step (presented .regIndirect 0xD71F0A1F#32)) = some (.ok ⟨.braa, none, .reg ⟨true, 16⟩, .reg ⟨true, 31⟩, .none, .branch⟩) := by
  decide

/-- V40 (R190): BRAB. -/
theorem test_step_brab : readBack (step (presented .regIndirect 0xD71F0E11#32)) = some (.ok ⟨.brab, none, .reg ⟨true, 16⟩, .reg ⟨true, 17⟩, .none, .branch⟩) := by
  decide

/-- V61 (R196): divergent (93 I7 c): BLR under opc 1001. -/
theorem test_step_blr : readBack (step (presented .regIndirect 0xD73F0100#32)) = some (.ok ⟨.blr, none, .reg ⟨true, 8⟩, .none, .none, .branch⟩) := by
  decide

/-- V59 (R198): divergent (93 I7 b): opc 1001 with op4 = 31. -/
theorem test_step_blraaz : readBack (step (presented .regIndirect 0xD73F091F#32)) = some (.ok ⟨.blraaz, none, .reg ⟨true, 8⟩, .none, .none, .branch⟩) := by
  decide

/-- V57 (R199): divergent (93 I7 a): two-register form under opc 0001. -/
theorem test_step_blraa : readBack (step (presented .regIndirect 0xD63F0909#32)) = some (.ok ⟨.blraa, none, .reg ⟨true, 8⟩, .reg ⟨true, 9⟩, .none, .branch⟩) := by
  decide

/-- V60 (R200): divergent (93 I7 b). -/
theorem test_step_blrabz : readBack (step (presented .regIndirect 0xD73F0D1F#32)) = some (.ok ⟨.blrabz, none, .reg ⟨true, 8⟩, .none, .none, .branch⟩) := by
  decide

/-- V58 (R201): divergent (93 I7 a): BLRAB under opc 0001. -/
theorem test_step_blrab : readBack (step (presented .regIndirect 0xD63F0D09#32)) = some (.ok ⟨.blrab, none, .reg ⟨true, 8⟩, .reg ⟨true, 9⟩, .none, .branch⟩) := by
  decide

/-- V64 (R207): RET X(31). -/
theorem test_step_ret : readBack (step (presented .regIndirect 0xD65F03E0#32)) = some (.ok ⟨.ret, none, .reg ⟨true, 31⟩, .none, .none, .ret⟩) := by
  decide

/-- V65 (R208): RETAA (W6). -/
theorem test_step_retaa : readBack (step (presented .regIndirect 0xD65F0BFF#32)) = some (.ok ⟨.retaa, none, .none, .none, .none, .ret⟩) := by
  decide

/-- V66 (R209): RETAB. -/
theorem test_step_retab : readBack (step (presented .regIndirect 0xD65F0FFF#32)) = some (.ok ⟨.retab, none, .none, .none, .none, .ret⟩) := by
  decide

/-- V73 (R216): ERET. -/
theorem test_step_eret : readBack (step (presented .regIndirect 0xD69F03E0#32)) = some (.ok ⟨.eret, none, .none, .none, .none, .ret⟩) := by
  decide

/-- V74 (R217): ERETAA. -/
theorem test_step_eretaa : readBack (step (presented .regIndirect 0xD69F0BFF#32)) = some (.ok ⟨.eretaa, none, .none, .none, .none, .ret⟩) := by
  decide

/-- V75 (R218): ERETAB. -/
theorem test_step_eretab : readBack (step (presented .regIndirect 0xD69F0FFF#32)) = some (.ok ⟨.eretab, none, .none, .none, .none, .ret⟩) := by
  decide

/-- V85 (R222): divergent (93 I8): op3 = 63, rn = 0, op4 = 31. -/
theorem test_step_drps : readBack (step (presented .regIndirect 0xD6BFFC1F#32)) = some (.ok ⟨.drps, none, .none, .none, .none, .unspecified⟩) := by
  decide

/-! ### Corner cases and the error sites of R234 -/

/-- V7 (R143): o1 = 1 wins over every other field (W1). -/
theorem test_step_errorO1WinsOverEveryField : readBack (step (presented .cond 0x55FFFFFF#32)) = some (.error ⟨.reservedBitViolation, .o1, 0x1⟩) := by
  decide

/-- V9 (R140): precondition broken (top bits 0): decoded by the rules anyway (92 D3). -/
theorem test_step_topBitsOfCondAreNotRead : readBack (step (presented .cond 0x00000040#32)) = some (.ok ⟨.b, some 0, .pcrel 8, .none, .none, .conditionalBranch⟩) := by
  decide

/-- V18 (R150): precondition broken: bit 31 = 0, so B (92 D3). -/
theorem test_step_topBitsOfUncondImmAreNotRead : readBack (step (presented .uncondImm 0x00000001#32)) = some (.ok ⟨.b, none, .pcrel 4, .none, .none, .branch⟩) := by
  decide

/-- V62 (R207): RET, rn = 30: no operand (W4). -/
theorem test_step_retThirtyHasNoOperand : readBack (step (presented .regIndirect 0xD65F03C0#32)) = some (.ok ⟨.ret, none, .none, .none, .none, .ret⟩) := by
  decide

/-- V97 (R207): precondition broken (top bits 0): the fields read RET (92 D3). -/
theorem test_step_topBitsOfRegIndirectAreNotRead : readBack (step (presented .regIndirect 0x005F03C0#32)) = some (.ok ⟨.ret, none, .none, .none, .none, .ret⟩) := by
  decide

/-- V42 (R191): opc 0000, op3 = 2, op4 != 31. -/
theorem test_step_errorBrazWithWrongOp4 : readBack (step (presented .regIndirect 0xD61F0A00#32)) = some (.error ⟨.unallocatedEncoding, .opcOp3Op4, 0x40⟩) := by
  decide

/-- V44 (R191): opc 1000, op3 = 0: no plain form under 1000. -/
theorem test_step_errorBrUnderOpc8 : readBack (step (presented .regIndirect 0xD71F0200#32)) = some (.error ⟨.unallocatedEncoding, .opcOp3Op4, 0x4000⟩) := by
  decide

/-- V46 (R191): largest packed value. -/
theorem test_step_errorBrLargestPacked : readBack (step (presented .regIndirect 0xD71FFFFF#32)) = some (.error ⟨.unallocatedEncoding, .opcOp3Op4, 0x47FF⟩) := by
  decide

/-- V53 (R197): BLR form with op4 != 0. -/
theorem test_step_errorBlrOp4 : readBack (step (presented .regIndirect 0xD63F0101#32)) = some (.error ⟨.malformedFixedField, .op4, 0x1⟩) := by
  decide

/-- V56 (R202): opc 1001, op3 = 63. -/
theorem test_step_errorBlOp3 : readBack (step (presented .regIndirect 0xD73FFD00#32)) = some (.error ⟨.unallocatedEncoding, .op3, 0x3F⟩) := by
  decide

/-- V67 (R206): RET form with op4 != 0. -/
theorem test_step_errorRetOp4 : readBack (step (presented .regIndirect 0xD65F03C1#32)) = some (.error ⟨.malformedFixedField, .op4, 0x1⟩) := by
  decide

/-- V68 (R210): RETAA form: rn reported before op4 (92 D11). -/
theorem test_step_errorRetaaRnBeforeOp4 : readBack (step (presented .regIndirect 0xD65F0801#32)) = some (.error ⟨.malformedFixedField, .rn, 0x0⟩) := by
  decide

/-- V70 (R210): RETAA form: rn = 31, op4 = 0. -/
theorem test_step_errorRetaaOp4 : readBack (step (presented .regIndirect 0xD65F0BE0#32)) = some (.error ⟨.malformedFixedField, .op4, 0x0⟩) := by
  decide

/-- V72 (R211): op3 = 1. -/
theorem test_step_errorRetOp3 : readBack (step (presented .regIndirect 0xD65F0400#32)) = some (.error ⟨.unallocatedEncoding, .op3, 0x1⟩) := by
  decide

/-- V76 (R219): ERET form with rn = 30. -/
theorem test_step_errorEretRn30 : readBack (step (presented .regIndirect 0xD69F03C0#32)) = some (.error ⟨.unallocatedEncoding, .op3RnOp4, 0x3C0⟩) := by
  decide

/-- V80 (R219): largest packed value. -/
theorem test_step_errorEretLargestPacked : readBack (step (presented .regIndirect 0xD69FFFFF#32)) = some (.error ⟨.unallocatedEncoding, .op3RnOp4, 0xFFFF⟩) := by
  decide

/-- V82 (R181): op2 = 30 under opc 0100 (W7). -/
theorem test_step_errorOp2BeforeEret : readBack (step (presented .regIndirect 0xD69E03E0#32)) = some (.error ⟨.malformedFixedField, .op2, 0x1E⟩) := by
  decide

/-- V90 (R183): opc 1010 (92 D12): one bit away from RET. -/
theorem test_step_errorOpcTen : readBack (step (presented .regIndirect 0xD75F03C0#32)) = some (.error ⟨.unallocatedEncoding, .opc, 0xA⟩) := by
  decide

/-- V96 (R181): op2 = 0 and opc 1111: op2 reported first. -/
theorem test_step_errorOp2BeforeOpc : readBack (step (presented .regIndirect 0xD7E00000#32)) = some (.error ⟨.malformedFixedField, .op2, 0x0⟩) := by
  decide

/-! ### The port-level vectors, every port -/

theorem test_ports_tbnz : portsAfter (step (presented .test 0xB72800A3#32)) =
    some ⟨true, 4, false, 0, ⟨1, 0x23, 0⟩, ⟨2, 0x00, 0x0000000000000025⟩, ⟨3, 0x00, 0x0000000000000014⟩, 1, 0, 0, 0x0000⟩ := by
  decide

theorem test_ports_bCond : portsAfter (step (presented .cond 0x54FFFF81#32)) =
    some ⟨true, 0, true, 1, ⟨3, 0x00, 0xFFFFFFFFFFFFFFF0⟩, ⟨0, 0x00, 0⟩, ⟨0, 0x00, 0⟩, 1, 0, 0, 0x0000⟩ := by
  decide

theorem test_ports_braa : portsAfter (step (presented .regIndirect 0xD71F0A11#32)) =
    some ⟨true, 8, false, 0, ⟨1, 0x30, 0⟩, ⟨1, 0x31, 0⟩, ⟨0, 0x00, 0⟩, 0, 0, 0, 0x0000⟩ := by
  decide

theorem test_ports_retThirty : portsAfter (step (presented .regIndirect 0xD65F03C0#32)) =
    some ⟨true, 17, false, 0, ⟨0, 0x00, 0⟩, ⟨0, 0x00, 0⟩, ⟨0, 0x00, 0⟩, 2, 0, 0, 0x0000⟩ := by
  decide

theorem test_ports_errorRn : portsAfter (step (presented .regIndirect 0xD65F0801#32)) =
    some ⟨false, 0, false, 0, ⟨0, 0x00, 0⟩, ⟨0, 0x00, 0⟩, ⟨0, 0x00, 0⟩, 0, 3, 5, 0x0000⟩ := by
  decide

theorem test_ports_errorO1 : portsAfter (step (presented .cond 0x55000000#32)) =
    some ⟨false, 0, false, 0, ⟨0, 0x00, 0⟩, ⟨0, 0x00, 0⟩, ⟨0, 0x00, 0⟩, 0, 1, 1, 0x0001⟩ := by
  decide

theorem test_ports_errorPacked : portsAfter (step (presented .regIndirect 0xD69FFFFF#32)) =
    some ⟨false, 0, false, 0, ⟨0, 0x00, 0⟩, ⟨0, 0x00, 0⟩, ⟨0, 0x00, 0⟩, 0, 2, 8, 0xFFFF⟩ := by
  decide

/-! ### Refusals, utilities, the host's side -/

/-- R22, R245: the codes 5, 6, 7. -/
theorem test_refused_grp : [5#3, 6#3, 7#3].map (fun c => refusalOf (step (State.reset.present c 0xD65F03C0#32))) =
    [some (.grpOutsideContract 5), some (.grpOutsideContract 6), some (.grpOutsideContract 7)] := by
  decide

/-- R120's example, and an argument beyond bit 31. -/
theorem test_extract : extract 0xD65F03C0#32 5 5 = 30 ∧ extractChecked 0xD65F03C0#32 28 5 = .error .utilityArgument := by
  decide

/-- R121's example, and an argument beyond bit 31. -/
theorem test_testBit : testBit 0x94000001#32 31 = true ∧ testBitChecked 0x94000001#32 32 = .error .utilityArgument := by
  decide

/-- R122's and R123's examples, and W9. -/
theorem test_signExtend : signExtend 0x1FFFFC#21 21 64 = -4 ∧ correctedSign 0x3FFF#14 14 = -1 ∧
    correctedSign 0x2000#14 14 = -8192 ∧ signExtend 0x3FFFF#19 19 64 = 262143 := by
  decide

/-- R51, P1: the bytes 03 00 00 94 are `BL` +12, and two bytes are no word. -/
theorem test_bytes : decodeBytes [0x03, 0x00, 0x00, 0x94, 0xE1] = .ok (.bl 3, [0xE1]) ∧
    decodeBytes [0x03, 0x00] = .error .truncated := by
  decide

/-- R78: a word of no group; R51: an error of the block. -/
theorem test_bytes_rejected : decodeBytes [0, 0, 0, 0] = .error .notBranchClass ∧
    decodeBytes [0x10, 0x00, 0x00, 0x55] = .error (.decodeError ⟨.reservedBitViolation, .o1, 1⟩) := by
  decide

/-- P1: the targets of `BL` at 0x10000 and of `CBNZ` at 0x10004. -/
theorem test_targets_P1 : branchTarget 0x10000#64 (Instr.bl 3).record = some 0x1000C#64 ∧
    branchTarget 0x10004#64 (Instr.cbnz false 0x7FFFF 1).record = some 0x10000#64 := by
  decide

/-- P4: the targets of `B` at 0 and of `B.LT` at the top of the address space. -/
theorem test_targets_P4 : branchTarget 0x0#64 (Instr.b 0x3FFFFFF).record = some 0xFFFFFFFFFFFFFFFC#64 ∧
    branchTarget 0xFFFFFFFFFFFFFFFC#64 (Instr.bCond 2 11).record = some 0x4#64 := by
  decide

/-- P3: the host takes the rejected word at 0x30008 as data, and the `DRPS` word at 0x30010 not. -/
theorem test_data_P3 :
    (readBack (step (presented .regIndirect 0xD75F03C0#32))).map hostTakesAsData = some true ∧
    (readBack (step (presented .regIndirect 0xD6BF0000#32))).map hostTakesAsData = some false := by
  decide

/-- The state that holds a routed table word runs it in its next step. -/
theorem test_withFetchWord :
    readBack (step (State.reset.withFetchWord 32 0xD65F0BFF)) = some (.ok ⟨.retaa, none, .none, .none, .none, .ret⟩) := by
  decide

/-- spec/opcode_table.json: no two rows of one group have one full pattern between them, but for the rows that the
constraint on op4 tells apart. -/
theorem test_tableRowsDiffer : TableRow.all.Pairwise fun r r' =>
    (r.fullMask &&& r'.fullMask) &&& (r.fullMatch ^^^ r'.fullMatch) ≠ 0 ∨
      (r = .blraaz ∧ r' = .blraa) ∨ (r = .blrabz ∧ r' = .blrab) := by
  decide

/-! ### Witnesses: for each statement with hypotheses, concrete values that meet them, each clause at a boundary -/

theorem witness_StepRunsTheDecodedInstruction :
    EncGroup.ofCode (presented .regIndirect 0xD65F03C0#32).grp = some .regIndirect ∧
    decodeInstr .regIndirect (presented .regIndirect 0xD65F03C0#32).word = .ok (.ret 30) := by
  decide

theorem witness_DecodeErrorIsAnOutputNotATrap :
    EncGroup.ofCode (presented .cond 0x55000000#32).grp = some .cond ∧
    decodeInstr .cond (presented .cond 0x55000000#32).word = .error ⟨.reservedBitViolation, .o1, 1⟩ := by
  decide

/-- Code 4 is inside and code 5 outside: the clauses meet here and no code falls under both. -/
theorem witness_StepRefusesExactlyGrp5To7 :
    (State.reset.present 4 0#32).grp.toNat ≤ 4 ∧ 5 ≤ (State.reset.present 5 0#32).grp.toNat ∧
    ∀ c : GrpCode, ¬ (c.toNat ≤ 4 ∧ 5 ≤ c.toNat) := by
  decide

/-- rn = 29 and 31 on the one side, 30 on the other. -/
theorem witness_ExecRetFamily :
    (29#5).toNat ≠ 30 ∧ (31#5).toNat ≠ 30 ∧ (30#5).toNat = 30 := by
  decide

theorem witness_CondDecoder :
    (0x55000000#32).getLsbD 24 = true ∧ (0x54FFFFFF#32).getLsbD 24 = false := by
  decide

/-- V81 and V82: op2 = 0 and op2 = 30. -/
theorem witness_Op2CheckComesFirst :
    (RegIndirectFields 0xD6800000#32 0b0100#4 0#5 0#6 0#5 0#5 ∧ 0#5 ≠ 0b11111#5) ∧
    (RegIndirectFields 0xD69E03E0#32 0b0100#4 30#5 0#6 31#5 0#5 ∧ 30#5 ≠ 0b11111#5) := by
  decide

/-- V87, V90 and V95: opc 0011, 1010 and 1111. -/
theorem witness_UnallocatedOpcIsRejected :
    RegIndirectFields 0xD67F03C0#32 0b0011#4 0b11111#5 0#6 30#5 0#5 ∧
    RegIndirectFields 0xD75F03C0#32 0b1010#4 0b11111#5 0#6 30#5 0#5 ∧
    RegIndirectFields 0xD7FF03E0#32 0b1111#4 0b11111#5 0#6 31#5 0#5 := by
  decide

/-- V36, V37, V38, V41, V40 and V47, clause by clause. -/
theorem witness_BrFamilyDecoder :
    RegIndirectFields 0xD61F0200#32 0b0000#4 0b11111#5 0b000000#6 16#5 0b00000#5 ∧
    RegIndirectFields 0xD61F0A1F#32 0b0000#4 0b11111#5 0b000010#6 16#5 0b11111#5 ∧
    RegIndirectFields 0xD61F0E1F#32 0b0000#4 0b11111#5 0b000011#6 16#5 0b11111#5 ∧
    RegIndirectFields 0xD71F0A1F#32 0b1000#4 0b11111#5 0b000010#6 16#5 0b11111#5 ∧
    RegIndirectFields 0xD71F0E11#32 0b1000#4 0b11111#5 0b000011#6 16#5 0b10001#5 ∧
    RegIndirectFields 0xD61F0E1E#32 0b0000#4 0b11111#5 0b000011#6 16#5 0b11110#5 := by
  decide

/-- V61, V53, V59, V57, V50, V52 and V56, clause by clause. -/
theorem witness_BlFamilyDecoder :
    RegIndirectFields 0xD73F0100#32 0b1001#4 0b11111#5 0b000000#6 8#5 0b00000#5 ∧
    RegIndirectFields 0xD63F0101#32 0b0001#4 0b11111#5 0b000000#6 8#5 0b00001#5 ∧
    RegIndirectFields 0xD73F091F#32 0b1001#4 0b11111#5 0b000010#6 8#5 0b11111#5 ∧
    RegIndirectFields 0xD63F0909#32 0b0001#4 0b11111#5 0b000010#6 8#5 0b01001#5 ∧
    RegIndirectFields 0xD63F0D1F#32 0b0001#4 0b11111#5 0b000011#6 8#5 0b11111#5 ∧
    RegIndirectFields 0xD73F0D09#32 0b1001#4 0b11111#5 0b000011#6 8#5 0b01001#5 ∧
    RegIndirectFields 0xD73FFD00#32 0b1001#4 0b11111#5 0b111111#6 8#5 0b00000#5 := by
  decide

/-- V67. -/
theorem witness_RetLowFieldMustBeZero :
    RegIndirectFields 0xD65F03C1#32 0b0010#4 0b11111#5 0b000000#6 30#5 1#5 ∧ 1#5 ≠ 0b00000#5 := by
  decide

/-- V67, V62, V64, V69, V70, V65, V66 and V72, clause by clause. -/
theorem witness_RetFamilyDecoder :
    RegIndirectFields 0xD65F03C1#32 0b0010#4 0b11111#5 0b000000#6 30#5 1#5 ∧
    RegIndirectFields 0xD65F03C0#32 0b0010#4 0b11111#5 0b000000#6 30#5 0b00000#5 ∧
    RegIndirectFields 0xD65F03E0#32 0b0010#4 0b11111#5 0b000000#6 31#5 0b00000#5 ∧
    RegIndirectFields 0xD65F0BDF#32 0b0010#4 0b11111#5 0b000010#6 30#5 0b11111#5 ∧
    RegIndirectFields 0xD65F0BE0#32 0b0010#4 0b11111#5 0b000010#6 0b11111#5 0#5 ∧
    RegIndirectFields 0xD65F0BFF#32 0b0010#4 0b11111#5 0b000010#6 0b11111#5 0b11111#5 ∧
    RegIndirectFields 0xD65F0FFF#32 0b0010#4 0b11111#5 0b000011#6 0b11111#5 0b11111#5 ∧
    RegIndirectFields 0xD65F0400#32 0b0010#4 0b11111#5 0b000001#6 0#5 0#5 := by
  decide

/-- V73, V74, V75 and V79, clause by clause. -/
theorem witness_EretFamilyDecoder :
    RegIndirectFields 0xD69F03E0#32 0b0100#4 0b11111#5 0b000000#6 0b11111#5 0b00000#5 ∧
    RegIndirectFields 0xD69F0BFF#32 0b0100#4 0b11111#5 0b000010#6 0b11111#5 0b11111#5 ∧
    RegIndirectFields 0xD69F0FFF#32 0b0100#4 0b11111#5 0b000011#6 0b11111#5 0b11111#5 ∧
    RegIndirectFields 0xD69F0BDF#32 0b0100#4 0b11111#5 0b000010#6 0b11110#5 0b11111#5 := by
  decide

/-- V85. -/
theorem witness_DrpsFamilyDecoder :
    RegIndirectFields 0xD6BFFC1F#32 0b0101#4 0b11111#5 0b111111#6 0#5 0b11111#5 := by
  decide

/-- One word for each reachable site of R234, with its error: V8, V81, V87, V46, V53, V56, V67, V69, V70, V72, V80. -/
theorem witness_ErrorSitesAreExactlyR234 :
    decode .cond 0x5500001F#32 = .error ⟨.reservedBitViolation, .o1, 1⟩ ∧
    decode .regIndirect 0xD6800000#32 = .error ⟨.malformedFixedField, .op2, 0⟩ ∧
    decode .regIndirect 0xD67F03C0#32 = .error ⟨.unallocatedEncoding, .opc, 3⟩ ∧
    decode .regIndirect 0xD71FFFFF#32 = .error ⟨.unallocatedEncoding, .opcOp3Op4, 0x47FF⟩ ∧
    decode .regIndirect 0xD63F0101#32 = .error ⟨.malformedFixedField, .op4, 1⟩ ∧
    decode .regIndirect 0xD73FFD00#32 = .error ⟨.unallocatedEncoding, .op3, 0x3F⟩ ∧
    decode .regIndirect 0xD65F03C1#32 = .error ⟨.malformedFixedField, .op4, 1⟩ ∧
    decode .regIndirect 0xD65F0BDF#32 = .error ⟨.malformedFixedField, .rn, 0x1E⟩ ∧
    decode .regIndirect 0xD65F0BE0#32 = .error ⟨.malformedFixedField, .op4, 0⟩ ∧
    decode .regIndirect 0xD65F0400#32 = .error ⟨.unallocatedEncoding, .op3, 1⟩ ∧
    decode .regIndirect 0xD69FFFFF#32 = .error ⟨.unallocatedEncoding, .op3RnOp4, 0xFFFF⟩ ∧
    RegIndirectFields 0xD69FFFFF#32 0b0100#4 0b11111#5 0b111111#6 0b11111#5 0b11111#5 := by
  decide

/-- A record of COND, and the two of other groups whose mnemonic is `B` or is not. -/
theorem witness_RecordsKeepR26 :
    decode .cond 0x54FFFF81#32 = .ok ⟨.b, some 1, .pcrel (-16), .none, .none, .conditionalBranch⟩ ∧
    decode .uncondImm 0x14000004#32 = .ok ⟨.b, none, .pcrel 16, .none, .none, .branch⟩ ∧
    decode .regIndirect 0xD65F03C0#32 = .ok ⟨.ret, none, .none, .none, .none, .ret⟩ := by
  decide

/-- One record of each category. -/
theorem witness_CategoriesAreR81 :
    decode .cond 0x5400001E#32 = .ok ⟨.bc, some 14, .pcrel 0, .none, .none, .conditionalBranch⟩ ∧
    decode .compare 0x34000040#32 = .ok ⟨.cbz, none, .reg ⟨false, 0⟩, .pcrel 8, .none, .conditionalBranch⟩ ∧
    decode .regIndirect 0xD69F03E0#32 = .ok ⟨.eret, none, .none, .none, .none, .ret⟩ ∧
    decode .regIndirect 0xD6BF0000#32 = .ok ⟨.drps, none, .none, .none, .none, .unspecified⟩ ∧
    decode .regIndirect 0xD63F0100#32 = .ok ⟨.blr, none, .reg ⟨true, 8⟩, .none, .none, .branch⟩ := by
  decide

/-- The largest op4 of `BLRAA`, one below the value its well-formedness excludes. -/
theorem witness_DecodeOfEncode : (Instr.blraa 31 30).wellFormed = true := by
  decide

/-- `BLRAA` under opc 0001 with op4 = 30. -/
theorem witness_FullPatternsRouteAndDecode :
    0xD63F091E#32 &&& TableRow.blraa.fullMask = TableRow.blraa.fullMatch ∧
    TableRow.blraa.constraint 0xD63F091E#32 = true := by
  decide

/-- V9, V18 and V97 beside the words whose read bits they share, and one pair for TEST and COMPARE. -/
theorem witness_UnreadBitsNeverMatter :
    0x00000040#32 &&& 0x01FFFFFF#32 = 0x54000040#32 &&& 0x01FFFFFF#32 ∧
    0x00000001#32 &&& 0x83FFFFFF#32 = 0x14000001#32 &&& 0x83FFFFFF#32 ∧
    0xFF2800A3#32 &&& 0x81FFFFFF#32 = 0xB72800A3#32 &&& 0x81FFFFFF#32 ∧
    0x01FFFFE1#32 &&& 0x81FFFFFF#32 = 0x35FFFFE1#32 &&& 0x81FFFFFF#32 ∧
    0x005F03C0#32 &&& 0x01FFFFFF#32 = 0xD65F03C0#32 &&& 0x01FFFFFF#32 := by
  decide

/-- V51 beside V57 (bit 24), V83 beside V85 (op3, rn and op4), and V93 beside another word of opc 1101. -/
theorem witness_FamiliesReadOnlyTheirBits :
    RegIndirectFields 0xD73F0909#32 0b1001#4 0b11111#5 2#6 8#5 9#5 ∧
    RegIndirectFields 0xD63F0909#32 0b0001#4 0b11111#5 2#6 8#5 9#5 ∧
    RegIndirectFields 0xD6BF03E0#32 0b0101#4 0b11111#5 0#6 31#5 0#5 ∧
    RegIndirectFields 0xD6BFFC1F#32 0b0101#4 0b11111#5 63#6 0#5 31#5 ∧
    RegIndirectFields 0xD7BF03E0#32 0b1101#4 0b11111#5 0#6 31#5 0#5 ∧
    RegIndirectFields 0xD7BFFC1F#32 0b1101#4 0b11111#5 63#6 0#5 31#5 := by
  decide

theorem witness_PresentedInstructionRuns : (Instr.blrab 0 30).wellFormed = true ∧ Instr.drps.wellFormed = true := by
  decide

/-- The whole word, its top bit, and the first arguments beyond them. -/
theorem witness_UtilitiesKeepTheirContracts :
    ((1 ≤ 32 ∧ 0 + 32 ≤ 32) ∧ (1 ≤ 1 ∧ 31 + 1 ≤ 32)) ∧ (32 < 31 + 2) ∧ (31 ≤ 31) ∧ (31 < 32) := by
  decide

/-- One bit spread over 64, and a field of 64 bits kept as it is. -/
theorem witness_SignExtendReplicatesTheTopBit :
    (1 ≤ 1 ∧ 1 ≤ 64 ∧ 64 ≤ 64 ∧ 63 < 64) ∧ (signExtend 1#1 1 64).getLsbD 63 = true ∧
    (signExtend 0x2000#14 14 64).getLsbD 63 = true ∧ (signExtend 0x2000#14 13 64).getLsbD 13 = false := by
  decide

theorem witness_SignExtensionsAgree :
    (1 ≤ 1 ∧ 1 ≤ 64) ∧ (1 ≤ 64 ∧ 64 ≤ 64) ∧ (correctedSign 0x2000#64 14).toInt = -8192 := by
  decide

/-- The narrowest and the widest field. -/
theorem witness_ScalingLaw : (1 ≤ 1 ∧ 1 ≤ 62) ∧ (1 ≤ 62 ∧ 62 ≤ 62) ∧
    signExtend (1#1 ++ 0b00#2) 3 64 = correctedSign 1#1 1 * 4 := by
  decide

/-- Both ends of each range, and the fields that give them (W2). -/
theorem witness_DisplacementRoundTrip :
    ((4 : Int) ∣ -1048576 ∧ -(2 : Int) ^ 20 ≤ -1048576 ∧ (4 : Int) ∣ 1048572 ∧ (1048572 : Int) ≤ 2 ^ 20 - 4) ∧
    (dispCond 0x40000#19).toInt = -1048576 ∧ (dispCompare 0x3FFFF#19).toInt = 1048572 ∧
    ((4 : Int) ∣ -134217728 ∧ -(2 : Int) ^ 27 ≤ -134217728 ∧ (dispUncondImm 0x2000000#26).toInt = -134217728) ∧
    ((4 : Int) ∣ 32764 ∧ (32764 : Int) ≤ 2 ^ 15 - 4 ∧ (dispTest 0x1FFF#14).toInt = 32764) := by
  decide

/-- A step that answers, from a state whose outputs are another word's. -/
theorem witness_StepKeepsPortsLegal :
    step (presented .test 0xB72800A3#32) = .next ((presented .test 0xB72800A3#32).drive
      (.ok ⟨.tbnz, none, .reg ⟨true, 3⟩, .imm 37, .pcrel 20, .conditionalBranch⟩)) := by
  rfl

theorem witness_StepSettlesTheOutputs :
    step (presented .cond 0x55000000#32) = .next ((presented .cond 0x55000000#32).drive
      (.error ⟨.reservedBitViolation, .o1, 1⟩)) := by
  rfl

theorem witness_DecodingTwiceIsIdentical :
    step (presented .compare 0x35FFFFE1#32) = .next ((presented .compare 0x35FFFFE1#32).drive
      (.ok ⟨.cbnz, none, .reg ⟨false, 1⟩, .pcrel (-4), .none, .conditionalBranch⟩)) := by
  rfl

/-- Two states with one pair of inputs and different outputs. -/
theorem witness_OutputsDependOnTheInputsAlone :
    let s := presented .regIndirect 0xD65F03C0#32
    let s' := (presented .regIndirect 0xD65F03C0#32).drive (.error ⟨.unallocatedEncoding, .op3, 1⟩)
    s.grp = s'.grp ∧ s.word = s'.word ∧ s.out ≠ s'.out := by
  decide

/-- Two inputs in both orders; the session of the first order answers. -/
theorem witness_SessionOrderDoesNotMatter :
    [((4 : GrpCode), 0xD65F03C0#32), (0, 0x55000000#32)].Perm [(0, 0x55000000#32), (4, 0xD65F03C0#32)] ∧
    ∃ outs t, session [((4 : GrpCode), 0xD65F03C0#32), (0, 0x55000000#32)] State.reset = .next (outs, t) := by
  exact ⟨by decide, _, _, rfl⟩

/-- A wait of exactly `T_PD`. -/
theorem witness_SampleAfterTpdIsSettled :
    (∃ t, step (presented .cond 0x54000040#32) = .next t) ∧ Config.tPD ≤ Config.tPD :=
  ⟨⟨_, rfl⟩, Nat.le_refl _⟩

/-- A decoded word of each group. -/
theorem witness_TargetsWrapModulo2Pow64 :
    (∃ r, decode .cond 0x5400004B#32 = .ok r) ∧ (∃ r, decode .uncondImm 0x17FFFFFF#32 = .ok r) ∧
    (∃ r, decode .test 0x36040000#32 = .ok r) ∧ (∃ r, decode .compare 0xB4800000#32 = .ok r) ∧
    (∃ r, decode .regIndirect 0xD61F0200#32 = .ok r) :=
  ⟨⟨_, rfl⟩, ⟨_, rfl⟩, ⟨_, rfl⟩, ⟨_, rfl⟩, ⟨_, rfl⟩⟩

end Sys2Proof.Tests
end

/-! PROOFS. Decoding an encoded instruction, and the liveness of the 24 mnemonics (R3). -/

namespace Sys2Proof

/-- R78: the dispatcher routes an encoded instruction to the instruction's own group. -/
theorem routeGroup_encode (i : Instr) : routeGroup (encode i) = some i.group := by
  cases i with
  | bCond | bcCond => exact routeGroup_of_cond (encodeCond_group ..)
  | b | bl => exact routeGroup_of_uncondImm (encodeUncondImm_group ..)
  | tbz | tbnz => exact routeGroup_of_test (encodeTest_group ..)
  | cbz | cbnz => exact routeGroup_of_compare (encodeCompare_group ..)
  | _ => exact routeGroup_of_regIndirect (encodeRegIndirect_group ..)

/-- The encoder sets op2 to all ones, so the opc it wrote selects the family (R181, R183). -/
@[simp] theorem decodeInstr_encodeRegIndirect (opc : BitVec 4) (op3 : BitVec 6) (rn op4 : BitVec 5) :
    decodeInstr .regIndirect (encodeRegIndirect opc op3 rn op4) = selectFamily opc 0b11111#5 op3 rn op4 :=
  decodeInstr_of_fields ⟨encodeRegIndirect_opc .., encodeRegIndirect_op2 .., encodeRegIndirect_op3 ..,
    encodeRegIndirect_rn .., encodeRegIndirect_op4 ..⟩

/-- Decoding the word of a well-formed instruction under its own group gives the instruction back. -/
theorem decodeInstr_encode {i : Instr} (h : i.wellFormed = true) : decodeInstr i.group (encode i) = .ok i := by
  cases i with
  | bCond | bcCond => simp [Instr.group, encode, decodeInstr, decodeCond]
  | b | bl => simp [Instr.group, encode, decodeInstr, decodeUncondImm]
  | tbz | tbnz => simp [Instr.group, encode, decodeInstr, decodeTest]
  | cbz | cbnz => simp [Instr.group, encode, decodeInstr, decodeCompare]
  | br | braaz | brabz | braa | brab => simp [Instr.group, encode, selectFamily, brFamily]
  | blr | blraaz | blrabz => simp [Instr.group, encode, selectFamily, blFamily]
  | blraa | blrab =>
    have hop4 := bne_iff_ne.mp h
    simp [Instr.group, encode, selectFamily, blFamily, hop4]
  | ret | retaa | retab => simp [Instr.group, encode, selectFamily, retFamily]
  | eret | eretaa | eretab => simp [Instr.group, encode, selectFamily, eretFamily]
  | drps => simp [Instr.group, encode, selectFamily, drpsFamily]

/-- The block decodes the word of a well-formed instruction to the instruction's record. -/
theorem decode_encode {i : Instr} (h : i.wellFormed = true) : decode i.group (encode i) = .ok i.record :=
  decode_eq_ok_iff.mpr ⟨i, decodeInstr_encode h, rfl⟩

/-- An instruction that emits the mnemonic, with every operand 0. -/
def Mnemonic.sample : Mnemonic → Instr
  | .b => .b 0
  | .bl => .bl 0
  | .bc => .bcCond 0 0
  | .tbz => .tbz false 0 0 0
  | .tbnz => .tbnz false 0 0 0
  | .cbz => .cbz false 0 0
  | .cbnz => .cbnz false 0 0
  | .br => .br 0
  | .braa => .braa 0 0
  | .brab => .brab 0 0
  | .braaz => .braaz 0
  | .brabz => .brabz 0
  | .blr => .blr 0
  | .blraa => .blraa 0 0
  | .blrab => .blrab 0 0
  | .blraaz => .blraaz 0
  | .blrabz => .blrabz 0
  | .ret => .ret 0
  | .retaa => .retaa
  | .retab => .retab
  | .eret => .eret
  | .eretaa => .eretaa
  | .eretab => .eretab
  | .drps => .drps

/-- The sample is an instruction some word encodes; for `BLRAA` and `BLRAB` since its modifier is not 31 (R199, R201). -/
theorem Mnemonic.sample_wellFormed (m : Mnemonic) : m.sample.wellFormed = true := by
  cases m <;> rfl

theorem Mnemonic.sample_record_mnemonic (m : Mnemonic) : m.sample.record.mnemonic = m := by
  cases m <;> rfl

/-- Settles O29: the word of the mnemonic's sample instruction is routed and decoded back to the sample's record. -/
theorem everyMnemonicIsEmitted : Obligations.EveryMnemonicIsEmitted := fun m =>
  ⟨m.sample.group, encode m.sample, m.sample.record, routeGroup_encode m.sample, decode_encode m.sample_wellFormed,
    m.sample_record_mnemonic⟩

end Sys2Proof

/-! PROOFS. The records and the ports: what a decoded record satisfies (R26), what a step leaves on the output ports
(R24 to R31, R126), that it depends on the inputs alone (R20, R243), and the consumer's target (R34). -/

namespace Sys2Proof

open Machine

/-! ### The record of an instruction -/

/-- R207: the two forms of `RET` differ in slot 0 alone. -/
theorem Machine.recRet_eq (rn : RegIndex) :
    recRet rn = ⟨.ret, none, if rn = 30#5 then .none else .reg (regX rn), .none, .none, .ret⟩ := by
  unfold recRet
  split <;> rfl

theorem DecodedInstr.wellFormed_iff (r : DecodedInstr) : r.wellFormed = true ↔
    (r.slot0 = .none → r.slot1 = .none) ∧ (r.slot1 = .none → r.slot2 = .none) ∧
    (r.cond.isSome = true → r.mnemonic = .b ∨ r.mnemonic = .bc) ∧
    (r.mnemonic = .bc → r.cond.isSome = true) := by
  cases hc : r.cond <;> simp [wellFormed, slotsPacked, condAgrees, hc] <;> tauto

/-- R26: every instruction's record keeps the record invariants, whether or not a word encodes the instruction. -/
theorem Instr.record_wellFormed (i : Instr) : i.record.wellFormed = true := by
  cases i with
  | ret rn => simp [record, recRet_eq, DecodedInstr.wellFormed_iff]
  | _ => rfl

/-- R26 (b): outside COND no record carries a condition, and `B` is UNCOND_IMM's. -/
theorem Instr.record_of_group_ne_cond {i : Instr} (h : i.group ≠ .cond) :
    i.record.cond = none ∧ i.record.mnemonic ≠ .bc ∧ (i.record.mnemonic = .b → i.group = .uncondImm) := by
  cases i with
  | bCond | bcCond => exact absurd rfl h
  | ret rn => simp [record, recRet_eq]
  | b => exact ⟨rfl, nofun, fun _ => rfl⟩
  | _ => exact ⟨rfl, nofun, nofun⟩

/-! ### What each decoder can answer -/

theorem decodeInstr_cond_ok {w : Word} {i : Instr} (h : decodeInstr .cond w = .ok i) :
    i = .bCond (extract w 5 19) (extract w 0 4) ∨ i = .bcCond (extract w 5 19) (extract w 0 4) := by
  simp only [decodeInstr, decodeCond] at h
  split_ifs at h <;> cases h <;> simp

theorem decodeInstr_uncondImm_ok {w : Word} {i : Instr} (h : decodeInstr .uncondImm w = .ok i) :
    i = .b (extract w 0 26) ∨ i = .bl (extract w 0 26) := by
  simp only [decodeInstr, decodeUncondImm] at h
  split_ifs at h <;> cases h <;> simp

theorem decodeInstr_test_ok {w : Word} {i : Instr} (h : decodeInstr .test w = .ok i) :
    i = .tbz (testBit w 31) (extract w 19 5) (extract w 5 14) (extract w 0 5) ∨
    i = .tbnz (testBit w 31) (extract w 19 5) (extract w 5 14) (extract w 0 5) := by
  simp only [decodeInstr, decodeTest] at h
  split_ifs at h <;> cases h <;> simp

theorem decodeInstr_compare_ok {w : Word} {i : Instr} (h : decodeInstr .compare w = .ok i) :
    i = .cbz (testBit w 31) (extract w 5 19) (extract w 0 5) ∨
    i = .cbnz (testBit w 31) (extract w 5 19) (extract w 0 5) := by
  simp only [decodeInstr, decodeCompare] at h
  split_ifs at h <;> cases h <;> simp

theorem group_of_selectFamily {opc : BitVec 4} {op2 : BitVec 5} {op3 : BitVec 6} {rn op4 : BitVec 5} {i : Instr}
    (h : selectFamily opc op2 op3 rn op4 = .ok i) : i.group = .regIndirect := by
  unfold selectFamily at h
  split_ifs at h
  · unfold brFamily at h; split_ifs at h <;> cases h <;> rfl
  · unfold blFamily at h; split_ifs at h <;> cases h <;> rfl
  · unfold retFamily at h; split_ifs at h <;> cases h <;> rfl
  · unfold eretFamily at h; split_ifs at h <;> cases h <;> rfl
  · cases h; rfl

/-- R70, R71: a group's decoder answers that group's instructions only. -/
theorem group_of_decodeInstr {g : EncGroup} {w : Word} {i : Instr} (h : decodeInstr g w = .ok i) : i.group = g := by
  cases g with
  | cond => obtain rfl | rfl := decodeInstr_cond_ok h <;> rfl
  | uncondImm => obtain rfl | rfl := decodeInstr_uncondImm_ok h <;> rfl
  | test => obtain rfl | rfl := decodeInstr_test_ok h <;> rfl
  | compare => obtain rfl | rfl := decodeInstr_compare_ok h <;> rfl
  | regIndirect =>
    simp only [decodeInstr, decodeRegIndirect] at h
    split_ifs at h
    exact group_of_selectFamily h

/-- Settles O27: the record's invariants are the instruction's own; its condition is the field that the COND decoder
read, and in another group the instruction is one without a condition. -/
theorem recordsKeepR26 : Obligations.RecordsKeepR26 := by
  intro g w r h
  obtain ⟨i, hi, rfl⟩ := decode_eq_ok_iff.mp h
  refine ⟨i.record_wellFormed, ?_, fun hg => ?_⟩
  · rintro rfl
    obtain rfl | rfl := decodeInstr_cond_ok hi
    · exact ⟨rfl, .inl rfl⟩
    · exact ⟨rfl, .inr rfl⟩
  · obtain rfl := group_of_decodeInstr hi
    exact i.record_of_group_ne_cond hg

/-! ### The ports of a result are legal -/

theorem Mnemonic.code_injective : Function.Injective Mnemonic.code := fun m m' h =>
  Option.some_injective _ (by rw [← Mnemonic.ofCode_code m, h, Mnemonic.ofCode_code])

theorem Operand.ports_kind_eq_zero_iff (o : Operand) : o.ports.kind = 0 ↔ o = .none := by
  cases o <;> simp [Operand.ports]

/-- R28, R126: a tested-bit index is at most 63. -/
theorem Machine.bitIndex_le (b5 : Bool) (b40 : BitVec 5) : (bitIndex b5 b40).toNat ≤ 63 := by
  have := b40.isLt
  rw [bitIndex_eq, BitVec.toNat_ofNat]
  split <;> omega

/-- A displacement operand's ports, the displacement being 4 times a field of at most 26 bits (R126). -/
theorem SlotPorts.legal_disp {n : Nat} {d : Imm} (v : BitVec (n + 1)) (hd : d = BitVec.ofInt 64 (4 * v.toInt))
    (hn : n ≤ 25) : (Operand.pcrel d).ports.Legal :=
  hd ▸ legal_pcrel v hn

open SlotPorts (legal_none legal_reg legal_imm legal_disp) in
/-- Every slot an instruction fills has legal ports (R28, R30, R53, R126). -/
theorem Instr.record_slots_legal (i : Instr) :
    i.record.slot0.ports.Legal ∧ i.record.slot1.ports.Legal ∧ i.record.slot2.ports.Legal := by
  cases i with
  | bCond v | bcCond v => exact ⟨legal_disp v (dispCond_eq v) (by omega), legal_none, legal_none⟩
  | b v | bl v => exact ⟨legal_disp v (dispUncondImm_eq v) (by omega), legal_none, legal_none⟩
  | tbz b5 b40 v | tbnz b5 b40 v =>
    exact ⟨legal_reg _, legal_imm (bitIndex_le b5 b40), legal_disp v (dispTest_eq v) (by omega)⟩
  | cbz _ v | cbnz _ v => exact ⟨legal_reg _, legal_disp v (dispCompare_eq v) (by omega), legal_none⟩
  | br | braaz | brabz | blr | blraaz | blrabz => exact ⟨legal_reg _, legal_none, legal_none⟩
  | braa | brab | blraa | blrab => exact ⟨legal_reg _, legal_reg _, legal_none⟩
  | ret rn =>
    simp only [record, recRet_eq]
    refine ⟨?_, legal_none, legal_none⟩
    split
    · exact legal_none
    · exact legal_reg _
  | retaa | retab | eret | eretaa | eretab | drps => exact ⟨legal_none, legal_none, legal_none⟩

/-- R24 to R30: a well-formed record with legal slots stands on the ports as a legal instruction. -/
theorem OutPorts.legalInstr_ofInstr {r : DecodedInstr} (h : r.wellFormed = true) (h0 : r.slot0.ports.Legal)
    (h1 : r.slot1.ports.Legal) (h2 : r.slot2.ports.Legal) : (OutPorts.ofInstr r).LegalInstr := by
  obtain ⟨hp01, hp12, hcond, hbc⟩ := r.wellFormed_iff.mp h
  exact
    { mnem := r.mnemonic.code_le
      condMnem := fun hc => (hcond hc).imp (congrArg Mnemonic.code) (congrArg Mnemonic.code)
      bcCond := fun hm => hbc (Mnemonic.code_injective hm)
      condZero := fun hc => by
        have hnone : r.cond = none := by simpa using hc
        rw [ofInstr_cond, hnone, Option.getD_none]
      slot0 := h0
      slot1 := h1
      slot2 := h2
      packed01 := (imp_congr r.slot0.ports_kind_eq_zero_iff r.slot1.ports_kind_eq_zero_iff).mpr hp01
      packed12 := (imp_congr r.slot1.ports_kind_eq_zero_iff r.slot2.ports_kind_eq_zero_iff).mpr hp12
      noError := ⟨rfl, rfl, rfl⟩ }

/-- R24: the block's result stands on the ports as a whole record or a whole error. -/
theorem OutPorts.legal_ofDecode (g : EncGroup) (w : Word) :
    (OutPorts.ofResult (Result.ofDecode (decode g w))).Legal := by
  cases h : decode g w with
  | ok r =>
    obtain ⟨i, -, rfl⟩ := decode_eq_ok_iff.mp h
    obtain ⟨h0, h1, h2⟩ := i.record_slots_legal
    exact ⟨fun _ => legalInstr_ofInstr i.record_wellFormed h0 h1 h2, nofun⟩
  | error e => exact ⟨nofun, fun _ => legalError_ofError e⟩

/-- Settles O45: whatever the outputs were, a step drives the result of the block's function, which is legal. -/
theorem stepKeepsPortsLegal : Obligations.StepKeepsPortsLegal := by
  intro s t h
  obtain ⟨g, -, rfl⟩ := step_next_cases h
  exact OutPorts.legal_ofDecode g s.word

/-! ### A presented instruction -/

theorem tableWord_toNat (w : Word) : tableWord 32 w.toNat = w := by
  simp [tableWord, Nat.mod_eq_of_lt w.isLt]

theorem decodeRouted_encode {i : Instr} (h : i.wellFormed = true) : decodeRouted (encode i) = .ok i := by
  simp only [decodeRouted, routeGroup_encode, decodeInstr_encode h]

/-- R51, R71: a table word decodes as the word that its four bytes are read back to. -/
theorem decodeTableWord_of_decodeRouted {w : Word} {i : Instr} (h : decodeRouted w = .ok i) :
    decodeTableWord 32 w.toNat = some i := by
  simp only [decodeTableWord, tableWord_toNat, bytesOfWord, decodeBytes, wordOfBytes_bytes, h]

/-- R37, R78: presenting a routed word puts it and its group's code on the inputs. -/
theorem Machine.State.withFetchWord_of_routeGroup {w : Word} {g : EncGroup} (s : State) (h : routeGroup w = some g) :
    s.withFetchWord 32 w.toNat = s.present g.code w := by
  simp only [withFetchWord, tableWord_toNat, h]

/-- R37, R71: the step of a decoded word is the instruction's meaning at that very state. -/
theorem Machine.step_of_decodeInstr_ok {s : State} {g : EncGroup} {i : Instr} (hg : EncGroup.ofCode s.grp = some g)
    (hi : decodeInstr g s.word = .ok i) : step s = exec i s := by
  rw [step_of_group hg, exec_eq, decode_eq_ok_iff.mpr ⟨i, hi, rfl⟩]
  rfl

/-- Settles O37: the dispatcher routes the encoded word to the instruction's group, whose decoder gives it back. -/
theorem presentedInstructionRuns : Obligations.PresentedInstructionRuns := by
  intro i s h
  refine ⟨decodeTableWord_of_decodeRouted (decodeRouted_encode h), ?_⟩
  rw [State.withFetchWord_of_routeGroup s (routeGroup_encode i)]
  exact step_of_decodeInstr_ok (ofCode_code i.group) (decodeInstr_encode h)

/-! ### The ports carry the result -/

theorem OutPorts.toResult_ofInstr (d : DecodedInstr) : (OutPorts.ofInstr d).toResult = some (.ok d) := by
  obtain ⟨m, cond, o0, o1, o2, cat⟩ := d
  cases cond <;> simp [toResult]

theorem OutPorts.toResult_ofError (e : DecodeError) : (OutPorts.ofError e).toResult = some (.error e) := by
  simp [toResult]

/-- Settles O44: each port code reads back to what it stands for. -/
theorem portsCarryTheWholeResult : Obligations.PortsCarryTheWholeResult
  | .ok d => OutPorts.toResult_ofInstr d
  | .error e => OutPorts.toResult_ofError e

/-! ### The inputs decide the outcome -/

/-- Settles O49: the group code and the word decide both outcomes of a step. -/
theorem outputsDependOnTheInputsAlone : Obligations.OutputsDependOnTheInputsAlone := by
  intro s s' hgrp hword
  refine ⟨fun t h => ?_, fun r h => ?_⟩
  · obtain ⟨g, hg, rfl⟩ := step_next_cases h
    refine ⟨_, step_of_group (hgrp ▸ hg), ?_⟩
    rw [State.drive_out, State.drive_out, hword]
  · cases hg : EncGroup.ofCode s.grp with
    | none => rw [← h, step_of_no_group hg, step_of_no_group (hgrp ▸ hg), hgrp]
    | some g => rw [step_of_group hg] at h; cases h

/-- Settles O3: the codes 0 to 4 are those that name a group. -/
theorem stepRefusesExactlyGrp5To7 : Obligations.StepRefusesExactlyGrp5To7 := by
  intro s
  refine ⟨fun h => step_of_no_group ?_, fun h => ?_⟩
  · rw [← Option.not_isSome_iff_eq_none, ofCode_isSome_iff]
    omega
  · obtain ⟨g, hg⟩ := Option.isSome_iff_exists.mp ((ofCode_isSome_iff s.grp).mpr h)
    exact ⟨_, step_of_group hg, rfl, rfl⟩

theorem EncGroup.ofCode_eq_some_iff (c : GrpCode) (g : EncGroup) : EncGroup.ofCode c = some g ↔ c = g.code := by
  refine ⟨?_, ?_⟩
  · cases g <;> revert c <;> decide
  · rintro rfl
    exact ofCode_code g

/-- Settles O4: the five codes are numerals, and each is read back to its group alone. -/
theorem groupCodesAreR22 : Obligations.GroupCodesAreR22 :=
  ⟨rfl, rfl, rfl, rfl, rfl, EncGroup.ofCode_eq_some_iff⟩

/-- Settles O13: every meaning drives the instruction's record, whatever the state. -/
theorem execChangesOnlyTheOutputs : Obligations.ExecChangesOnlyTheOutputs := fun i s s' =>
  ⟨_, _, exec_eq i s, exec_eq i s', rfl, rfl, rfl⟩

/-- Settles O43: four closed tables. -/
theorem portCodes : Obligations.PortCodes :=
  ⟨rfl, rfl, rfl, rfl⟩

/-! ### The consumer's target -/

/-- D16: the sum of an address and a displacement, as a number. -/
theorem toNat_add_ofInt (a : BitVec 64) (d : Int) :
    ((a + BitVec.ofInt 64 d).toNat : Int) = (a.toNat + d) % 2 ^ 64 := by
  rw [BitVec.toNat_add, BitVec.toNat_ofInt]
  omega

/-- R34: an immediate-group record's target is the address plus its displacement. -/
theorem exists_branchTarget {a d : BitVec 64} {r : DecodedInstr} {n : Int} (ht : branchTarget a r = some (a + d))
    (hd : d = BitVec.ofInt 64 n) : ∃ t, branchTarget a r = some t ∧ (t.toNat : Int) = (a.toNat + n) % 2 ^ 64 :=
  ⟨_, ht, hd ▸ toNat_add_ofInt a n⟩

/-- R79: a register-indirect record has no PCREL operand. -/
theorem branchTarget_regIndirect (a : BitVec 64) {i : Instr} (h : i.group = .regIndirect) :
    branchTarget a i.record = none := by
  cases i with
  | ret rn =>
    simp only [Instr.record, recRet_eq]
    split <;> rfl
  | bCond | bcCond | b | bl | tbz | tbnz | cbz | cbnz => cases h
  | _ => rfl

/-- Settles O53: in each group the PCREL operand is 4 times the field that the decoder read. -/
theorem targetsWrapModulo2Pow64 : Obligations.TargetsWrapModulo2Pow64 := by
  intro a w g r h
  obtain ⟨i, hi, rfl⟩ := decode_eq_ok_iff.mp h
  cases g with
  | cond => obtain rfl | rfl := decodeInstr_cond_ok hi <;> exact exists_branchTarget rfl (dispCond_eq _)
  | uncondImm => obtain rfl | rfl := decodeInstr_uncondImm_ok hi <;> exact exists_branchTarget rfl (dispUncondImm_eq _)
  | test => obtain rfl | rfl := decodeInstr_test_ok hi <;> exact exists_branchTarget rfl (dispTest_eq _)
  | compare => obtain rfl | rfl := decodeInstr_compare_ok hi <;> exact exists_branchTarget rfl (dispCompare_eq _)
  | regIndirect => exact branchTarget_regIndirect a (group_of_decodeInstr hi)

end Sys2Proof

/-! PROOFS. A session of presentations: each input is read as the block's function gives it, so order does not matter
(R37, R54). -/

namespace Sys2Proof

open Machine

/-! ### What a session reads -/

/-- R71: a step answers, and with which outputs, as `outputsOf` says of the two inputs. -/
theorem Machine.exists_step_next_out_iff (s : State) (o : OutPorts) :
    (∃ t, step s = .next t ∧ t.out = o) ↔ outputsOf s.grp s.word = some o := by
  unfold outputsOf
  cases hg : EncGroup.ofCode s.grp with
  | none => simp [step_of_no_group hg]
  | some g => simp [step_of_group hg]

/-- R37, R54: a session answers exactly when every input of it is decoded, and it reads each input's own outputs. The
starting state is nowhere in the right side. -/
theorem Machine.exists_session_next_iff (l : List (GrpCode × Word)) (s : State) (outs : List OutPorts) :
    (∃ u, session l s = .next (outs, u)) ↔ List.Forall₂ (fun p o => outputsOf p.1 p.2 = some o) l outs := by
  induction l generalizing s outs with
  | nil => simp [session, eq_comm]
  | cons p rest ih =>
    obtain ⟨c, w⟩ := p
    refine ⟨fun ⟨u, h⟩ => ?_, fun h => ?_⟩
    · obtain ⟨t, outs', hstep, hrest, rfl⟩ := session_cons_next h
      exact .cons ((exists_step_next_out_iff _ _).mp ⟨t, hstep, rfl⟩) ((ih t outs').mp ⟨u, hrest⟩)
    · obtain - | ⟨ho, hrest⟩ := h
      obtain ⟨t, hstep, rfl⟩ := (exists_step_next_out_iff (s.present c w) _).mpr ho
      obtain ⟨u, hu⟩ := (ih t _).mpr hrest
      exact ⟨u, by rw [session_cons_of_step hstep, hu]; rfl⟩

/-! ### The order of a session -/

/-- Settles O51: outputs that match the inputs one by one are permuted along with them. -/
theorem sessionOrderDoesNotMatter : Obligations.SessionOrderDoesNotMatter := by
  intro l l' s s' t outs hperm h
  have hreads := (exists_session_next_iff l s outs).mp ⟨t, h⟩
  obtain ⟨outs', hreads', hperm'⟩ := List.perm_comp_forall₂ hperm.symm hreads
  obtain ⟨t', h'⟩ := (exists_session_next_iff l' s' outs').mpr hreads'
  exact ⟨outs', t', h', hperm'.symm⟩

end Sys2Proof

/-! PROOFS. The encoding: decode and encode agree (R72 to R78, R225), the opcode table selects what the decoder reads
(R82), no decoder reads a bit outside its format (R72), and the categories (R81). -/

namespace Sys2Proof

open Machine

/-! ### Masked words -/

/-- Words that agree on a mask agree on a smaller one. -/
theorem and_eq_and_of_subset {w w' m m' : Word} (h : w &&& m = w' &&& m) (hm : m &&& m' = m') :
    w &&& m' = w' &&& m' := by
  rw [← hm, ← BitVec.and_assoc, h, BitVec.and_assoc]

/-- Words that agree on a mask agree on every field within it. -/
theorem extract_eq_extract_of_and_eq {w w' m : Word} (h : w &&& m = w' &&& m) (lo width : Nat)
    (hm : m.extractLsb' lo width = BitVec.allOnes width) : extract w lo width = extract w' lo width :=
  (extract_of_and_eq h lo width hm).trans (extract_of_and_eq rfl lo width hm).symm

/-- Words that agree on a mask agree on every bit of it. -/
theorem testBit_eq_testBit_of_and_eq {w w' m : Word} (h : w &&& m = w' &&& m) (n : Nat)
    (hm : m.extractLsb' n 1 = BitVec.allOnes 1) : testBit w n = testBit w' n := by
  rw [testBit_eq_iff, ← extract_one]
  exact extract_eq_extract_of_and_eq h n 1 hm

/-! ### No decoder reads a bit outside its format (R72) -/

/-- R72: the bits that the decoder of a group names. -/
def EncGroup.readMask : EncGroup → Word
  | .cond => 0x01FFFFFF#32
  | .uncondImm => 0x83FFFFFF#32
  | .test => 0x81FFFFFF#32
  | .compare => 0x81FFFFFF#32
  | .regIndirect => 0x01FFFFFF#32

/-- R72: every field and every bit that a decoder takes from the word lies in the bits it names. -/
theorem decodeInstr_congr {g : EncGroup} {w w' : Word} (h : w &&& g.readMask = w' &&& g.readMask) :
    decodeInstr g w = decodeInstr g w' := by
  have hfield := extract_eq_extract_of_and_eq h
  have hbit := testBit_eq_testBit_of_and_eq h
  cases g with
  | cond => simp only [decodeInstr, decodeCond, hbit 24 rfl, hbit 4 rfl, hfield 5 19 rfl, hfield 0 4 rfl]
  | uncondImm => simp only [decodeInstr, decodeUncondImm, hbit 31 rfl, hfield 0 26 rfl]
  | test =>
    simp only [decodeInstr, decodeTest, hbit 24 rfl, hbit 31 rfl, hfield 19 5 rfl, hfield 5 14 rfl, hfield 0 5 rfl]
  | compare => simp only [decodeInstr, decodeCompare, hbit 24 rfl, hbit 31 rfl, hfield 5 19 rfl, hfield 0 5 rfl]
  | regIndirect =>
    simp only [decodeInstr, decodeRegIndirect, hfield 16 5 rfl, hfield 21 4 rfl, hfield 10 6 rfl, hfield 5 5 rfl,
      hfield 0 5 rfl]

/-- Settles O35: equal words of a decoder's bits give equal instructions, and so equal records. -/
theorem unreadBitsNeverMatter : Obligations.UnreadBitsNeverMatter := fun _ _ =>
  ⟨fun h => decode_congr (decodeInstr_congr (g := .cond) h),
    fun h => decode_congr (decodeInstr_congr (g := .uncondImm) h),
    fun h => decode_congr (decodeInstr_congr (g := .test) h),
    fun h => decode_congr (decodeInstr_congr (g := .compare) h),
    fun h => decode_congr (decodeInstr_congr (g := .regIndirect) h)⟩

/-! ### A word's bits in a group's format are its fields, encoded (R73 to R77) -/

section Fields

variable {w : Word} {opc : BitVec 4} {op3 : BitVec 6} {rn op4 : BitVec 5}

theorem and_eq_encodeCond_and {o0 : BitVec 1} (ho1 : extract w 24 1 = 0) (ho0 : extract w 4 1 = o0) :
    w &&& 0x01FFFFFF#32 = encodeCond (extract w 5 19) o0 (extract w 0 4) &&& 0x01FFFFFF#32 := by
  have hgroup : extract 0x01FFFFFF#32 25 7 = 0 := rfl
  simp [eq_iff_condFields, hgroup, ho1, ho0]

theorem and_eq_encodeUncondImm_and {op : BitVec 1} (hop : extract w 31 1 = op) :
    w &&& 0x83FFFFFF#32 = encodeUncondImm op (extract w 0 26) &&& 0x83FFFFFF#32 := by
  have hgroup : extract 0x83FFFFFF#32 26 5 = 0 := rfl
  simp [eq_iff_uncondImmFields, hgroup, hop]

theorem and_eq_encodeTest_and {op : BitVec 1} (hop : extract w 24 1 = op) :
    w &&& 0x81FFFFFF#32 =
      encodeTest (testBit w 31) op (extract w 19 5) (extract w 5 14) (extract w 0 5) &&& 0x81FFFFFF#32 := by
  have hgroup : extract 0x81FFFFFF#32 25 6 = 0 := rfl
  simp [eq_iff_testFields, hgroup, hop, ← extract_one]

theorem and_eq_encodeCompare_and {op : BitVec 1} (hop : extract w 24 1 = op) :
    w &&& 0x81FFFFFF#32 =
      encodeCompare (testBit w 31) op (extract w 5 19) (extract w 0 5) &&& 0x81FFFFFF#32 := by
  have hgroup : extract 0x81FFFFFF#32 25 6 = 0 := rfl
  simp [eq_iff_compareFields, hgroup, hop, ← extract_one]

/-- A field of a field. -/
theorem extractLsb'_extract (w : Word) {lo width k n : Nat} (h : k + n ≤ width) :
    (extract w lo width).extractLsb' k n = extract w (lo + k) n := by
  ext j hj
  simp [extract, show k + j < width by omega, Nat.add_assoc]

theorem and_eq_encodeRegIndirect_and (h : RegIndirectFields w opc 0b11111#5 op3 rn op4) :
    w &&& 0x01FFFFFF#32 = encodeRegIndirect opc op3 rn op4 &&& 0x01FFFFFF#32 := by
  obtain ⟨hopc, hop2, hop3, hrn, hop4⟩ := h
  rw [← extract] at hopc hop2 hop3 hrn hop4
  have hgroup : extract 0x01FFFFFF#32 25 7 = 0 := rfl
  simp [eq_iff_regIndirectFields, hgroup, hop2, hop3, hrn, hop4, ← hopc, extractLsb'_extract]

/-- R225 (D13): the two opc values of the BL family differ in bit 24 alone, so an encoding with the one fits a word with
the other on the bits below it. -/
theorem and_eq_encodeBl_and {opc' : BitVec 4} (h : RegIndirectFields w opc' 0b11111#5 op3 rn op4)
    (hopc' : opc'.extractLsb' 0 3 = 0b001#3) (hopc : opc.extractLsb' 0 3 = 0b001#3) :
    w &&& 0x00FFFFFF#32 = encodeRegIndirect opc op3 rn op4 &&& 0x00FFFFFF#32 := by
  have hgroup : extract 0x00FFFFFF#32 25 7 = 0 := rfl
  have hhigh : extract 0x00FFFFFF#32 24 1 = 0 := rfl
  rw [and_eq_and_of_subset (and_eq_encodeRegIndirect_and h) rfl]
  simp [eq_iff_regIndirectFields, hgroup, hhigh, hopc, hopc']

/-- R222, R225: below op2 an encoding of `DRPS` may hold anything. -/
theorem and_eq_encodeDrps_and (hopc : extract w 21 4 = opc) (hop2 : extract w 16 5 = 0b11111#5) :
    w &&& 0x01FF0000#32 = encodeRegIndirect opc op3 rn op4 &&& 0x01FF0000#32 := by
  have hgroup : extract 0x01FF0000#32 25 7 = 0 := rfl
  have hop3 : extract 0x01FF0000#32 10 6 = 0 := rfl
  have hrn : extract 0x01FF0000#32 5 5 = 0 := rfl
  have hop4 : extract 0x01FF0000#32 0 5 = 0 := rfl
  simp [eq_iff_regIndirectFields, hgroup, hop2, hop3, hrn, hop4, ← hopc, extractLsb'_extract]

end Fields

/-! ### The decoder answers the instructions that have the word's bits -/

/-- The instruction is one a word can have, and the word agrees with its encoding on every bit that selects the row or
belongs to one of its fields. -/
def Instr.HasWord (i : Instr) (w : Word) : Prop :=
  i.wellFormed = true ∧ w &&& i.row.readMask = encode i &&& i.row.readMask

section Families

variable {w : Word} {opc : BitVec 4} {op2 : BitVec 5} {op3 : BitVec 6} {rn op4 : BitVec 5} {i : Instr}

theorem hasWord_of_brFamily (hw : RegIndirectFields w opc 0b11111#5 op3 rn op4)
    (h : brFamily opc op3 rn op4 = .ok i) : i.HasWord w := by
  unfold brFamily at h
  split_ifs at h with hr hr hr hr hr <;> cases h <;> simp only [hr] at hw <;>
    exact ⟨rfl, and_eq_encodeRegIndirect_and hw⟩

/-- R195: the opc values of the BL family are those that end in 001 (D13). -/
theorem opcLow_eq_one_iff (opc : BitVec 4) : opc.extractLsb' 0 3 = 0b001#3 ↔ opc = 0b0001#4 ∨ opc = 0b1001#4 := by
  revert opc; decide

theorem hasWord_of_blFamily (hw : RegIndirectFields w opc 0b11111#5 op3 rn op4)
    (hopc : opc = 0b0001#4 ∨ opc = 0b1001#4) (h : blFamily op3 rn op4 = .ok i) : i.HasWord w := by
  rw [← opcLow_eq_one_iff] at hopc
  unfold blFamily at h
  split_ifs at h with h0 hop4 h2 hop4 h3 hop4 <;> cases h
  · rw [h0, not_not.mp hop4] at hw; exact ⟨rfl, and_eq_encodeBl_and hw hopc rfl⟩
  · rw [h2, hop4] at hw; exact ⟨rfl, and_eq_encodeBl_and hw hopc rfl⟩
  · rw [h2] at hw; exact ⟨bne_iff_ne.mpr hop4, and_eq_encodeBl_and hw hopc rfl⟩
  · rw [h3, hop4] at hw; exact ⟨rfl, and_eq_encodeBl_and hw hopc rfl⟩
  · rw [h3] at hw; exact ⟨bne_iff_ne.mpr hop4, and_eq_encodeBl_and hw hopc rfl⟩

theorem hasWord_of_retFamily (hw : RegIndirectFields w 0b0010#4 0b11111#5 op3 rn op4)
    (h : retFamily op3 rn op4 = .ok i) : i.HasWord w := by
  unfold retFamily at h
  split_ifs at h with h0 hop4 h23 hrn hop4 h2 <;> cases h
  · rw [h0, not_not.mp hop4] at hw; exact ⟨rfl, and_eq_encodeRegIndirect_and hw⟩
  · rw [h2, not_not.mp hrn, not_not.mp hop4] at hw; exact ⟨rfl, and_eq_encodeRegIndirect_and hw⟩
  · rw [h23.resolve_left h2, not_not.mp hrn, not_not.mp hop4] at hw; exact ⟨rfl, and_eq_encodeRegIndirect_and hw⟩

theorem hasWord_of_eretFamily (hw : RegIndirectFields w 0b0100#4 0b11111#5 op3 rn op4)
    (h : eretFamily op2 op3 rn op4 = .ok i) : i.HasWord w := by
  unfold eretFamily at h
  split_ifs at h with h2 hr hr hr <;> cases h <;> simp only [hr] at hw <;>
    exact ⟨rfl, and_eq_encodeRegIndirect_and hw⟩

/-- R72: a decoded word has the bits of its instruction. -/
theorem hasWord_of_decodeInstr {g : EncGroup} (h : decodeInstr g w = .ok i) : i.HasWord w := by
  have bit (n : Nat) (b : Bool) := (testBit_eq_iff w n b).mp
  cases g with
  | cond =>
    simp only [decodeInstr, decodeCond] at h
    split_ifs at h with ho1 ho0 <;> cases h
    · exact ⟨rfl, and_eq_encodeCond_and (bit 24 _ (eq_false_of_ne_true ho1)) (bit 4 _ ho0)⟩
    · exact ⟨rfl, and_eq_encodeCond_and (bit 24 _ (eq_false_of_ne_true ho1)) (bit 4 _ (eq_false_of_ne_true ho0))⟩
  | uncondImm =>
    simp only [decodeInstr, decodeUncondImm] at h
    split_ifs at h with hop <;> cases h
    · exact ⟨rfl, and_eq_encodeUncondImm_and (bit 31 _ hop)⟩
    · exact ⟨rfl, and_eq_encodeUncondImm_and (bit 31 _ (eq_false_of_ne_true hop))⟩
  | test =>
    simp only [decodeInstr, decodeTest] at h
    split_ifs at h with hop <;> cases h
    · exact ⟨rfl, and_eq_encodeTest_and (bit 24 _ hop)⟩
    · exact ⟨rfl, and_eq_encodeTest_and (bit 24 _ (eq_false_of_ne_true hop))⟩
  | compare =>
    simp only [decodeInstr, decodeCompare] at h
    split_ifs at h with hop <;> cases h
    · exact ⟨rfl, and_eq_encodeCompare_and (bit 24 _ hop)⟩
    · exact ⟨rfl, and_eq_encodeCompare_and (bit 24 _ (eq_false_of_ne_true hop))⟩
  | regIndirect =>
    have hw := regIndirectFields_self w
    simp only [decodeInstr, decodeRegIndirect] at h
    split_ifs at h with hop2
    rw [show w.extractLsb' 16 5 = 0b11111#5 from not_not.mp hop2] at hw
    unfold selectFamily at h
    split_ifs at h with hbr hbl hret heret hdrps
    · exact hasWord_of_brFamily hw h
    · exact hasWord_of_blFamily hw hbl h
    · exact hasWord_of_retFamily (hret ▸ hw) h
    · exact hasWord_of_eretFamily (heret ▸ hw) h
    · cases h
      exact ⟨rfl, and_eq_encodeDrps_and hdrps (not_not.mp hop2)⟩

end Families

/-- R195: the whole BL family is selected by the opc bits below bit 24. -/
theorem selectFamily_bl {opc : BitVec 4} (h : opc.extractLsb' 0 3 = 0b001#3) (op2 : BitVec 5) (op3 : BitVec 6)
    (rn op4 : BitVec 5) : selectFamily opc op2 op3 rn op4 = blFamily op3 rn op4 := by
  obtain rfl | rfl := (opcLow_eq_one_iff opc).mp h <;> rfl

/-- R225 (D13): a word that has the bits of a BL encoding below bit 24 decodes as the encoding does. -/
theorem decodeInstr_of_and_eq_encodeBl_and {w : Word} {opc : BitVec 4} {op3 : BitVec 6} {rn op4 : BitVec 5}
    (hopc : opc.extractLsb' 0 3 = 0b001#3)
    (h : w &&& 0x00FFFFFF#32 = encodeRegIndirect opc op3 rn op4 &&& 0x00FFFFFF#32) :
    decodeInstr .regIndirect w = decodeInstr .regIndirect (encodeRegIndirect opc op3 rn op4) := by
  have field := extract_eq_extract_of_and_eq h
  have hlow : (extract w 21 4).extractLsb' 0 3 = 0b001#3 := by
    rw [extractLsb'_extract w (by decide), field 21 3 rfl, encodeRegIndirect_opcLow, hopc]
  rw [decodeInstr_encodeRegIndirect, selectFamily_bl hopc, ← selectFamily_bl hlow]
  exact decodeInstr_of_fields ⟨rfl, (field 16 5 rfl).trans (encodeRegIndirect_op2 ..),
    (field 10 6 rfl).trans (encodeRegIndirect_op3 ..), (field 5 5 rfl).trans (encodeRegIndirect_rn ..),
    (field 0 5 rfl).trans (encodeRegIndirect_op4 ..)⟩

/-- R222, R225: op2 and opc alone make a word `DRPS`. -/
theorem decodeInstr_of_and_eq_encodeDrps_and {w : Word}
    (h : w &&& 0x01FF0000#32 = encode .drps &&& 0x01FF0000#32) : decodeInstr .regIndirect w = .ok .drps := by
  have field := extract_eq_extract_of_and_eq h
  exact decodeInstr_of_fields ⟨(field 21 4 rfl).trans (encodeRegIndirect_opc ..),
    (field 16 5 rfl).trans (encodeRegIndirect_op2 ..), rfl, rfl, rfl⟩

/-- R72, R225: a word that has an instruction's bits decodes to the instruction. -/
theorem decodeInstr_of_hasWord {i : Instr} {w : Word} (h : i.HasWord w) : decodeInstr i.group w = .ok i := by
  obtain ⟨hwf, hbits⟩ := h
  rw [← decodeInstr_encode hwf]
  cases i with
  | blr | blraaz | blraa | blrabz | blrab => exact decodeInstr_of_and_eq_encodeBl_and rfl hbits
  | drps => exact decodeInstr_of_and_eq_encodeDrps_and hbits
  | _ => exact decodeInstr_congr hbits

/-- Settles O32: the decoders' branches give a decoded word its instruction's bits; conversely a word with those bits
decodes as the instruction's own word does. -/
theorem decodedWordIsTheInstructionsOwn : Obligations.DecodedWordIsTheInstructionsOwn := fun _ _ _ =>
  ⟨fun h => ⟨group_of_decodeInstr h, hasWord_of_decodeInstr h⟩, fun ⟨hg, h⟩ => hg ▸ decodeInstr_of_hasWord h⟩

/-! ### The opcode table -/

open Laws.EncodeFitsTable in
/-- The table's row of a well-formed instruction selects the instruction's own word. -/
theorem encodeFitsTable : ∀ i : Instr, Laws.EncodeFitsTable.Statement i
  | .bCond .. => bCond _ _
  | .bcCond .. => bcCond _ _
  | .b .. => b _
  | .bl .. => bl _
  | .tbz .. => tbz _ _ _ _
  | .tbnz .. => tbnz _ _ _ _
  | .cbz .. => cbz _ _ _
  | .cbnz .. => cbnz _ _ _
  | .br .. => br _
  | .braaz .. => braaz _
  | .brabz .. => brabz _
  | .braa .. => braa _ _
  | .brab .. => brab _ _
  | .blr .. => blr _
  | .blraaz .. => blraaz _
  | .blraa .. => blraa _ _
  | .blrabz .. => blrabz _
  | .blrab .. => blrab _ _
  | .ret .. => ret _
  | .retaa => retaa
  | .retab => retab
  | .eret => eret
  | .eretaa => eretaa
  | .eretab => eretab
  | .drps => drps

/-- R72: whether a row selects a word depends on the row's own bits alone. -/
theorem TableRow.selects_congr {r : TableRow} {w w' : Word} (h : w &&& r.readMask = w' &&& r.readMask) :
    r.selects w = r.selects w' := by
  have hmask : w &&& r.blockMask = w' &&& r.blockMask := and_eq_and_of_subset h (by cases r <;> rfl)
  have hcon : r.constraint w = r.constraint w' := by
    cases r with
    | blraa | blrab => simp only [constraint, and_eq_and_of_subset h (m' := 0x1F#32) rfl]
    | _ => rfl
  simp only [selects, hmask, hcon]

/-- The instruction of a row whose operands are the fields of a word. -/
def TableRow.instr (w : Word) : TableRow → Instr
  | .bCond => .bCond (extract w 5 19) (extract w 0 4)
  | .bcCond => .bcCond (extract w 5 19) (extract w 0 4)
  | .b => .b (extract w 0 26)
  | .bl => .bl (extract w 0 26)
  | .tbz => .tbz (testBit w 31) (extract w 19 5) (extract w 5 14) (extract w 0 5)
  | .tbnz => .tbnz (testBit w 31) (extract w 19 5) (extract w 5 14) (extract w 0 5)
  | .cbz => .cbz (testBit w 31) (extract w 5 19) (extract w 0 5)
  | .cbnz => .cbnz (testBit w 31) (extract w 5 19) (extract w 0 5)
  | .br => .br (extract w 5 5)
  | .braaz => .braaz (extract w 5 5)
  | .brabz => .brabz (extract w 5 5)
  | .braa => .braa (extract w 5 5) (extract w 0 5)
  | .brab => .brab (extract w 5 5) (extract w 0 5)
  | .blr => .blr (extract w 5 5)
  | .blraaz => .blraaz (extract w 5 5)
  | .blraa => .blraa (extract w 5 5) (extract w 0 5)
  | .blrabz => .blrabz (extract w 5 5)
  | .blrab => .blrab (extract w 5 5) (extract w 0 5)
  | .ret => .ret (extract w 5 5)
  | .retaa => .retaa
  | .retab => .retab
  | .eret => .eret
  | .eretaa => .eretaa
  | .eretab => .eretab
  | .drps => .drps

theorem TableRow.row_instr (r : TableRow) (w : Word) : (r.instr w).row = r := by
  cases r <;> rfl

theorem TableRow.group_instr (r : TableRow) (w : Word) : (r.instr w).group = r.group := by
  cases r <;> rfl

/-- The constraint's mask is the op4 field. -/
theorem and_op4Mask_eq_iff (w : Word) : w &&& 0x1F#32 = 0x1F#32 ↔ extract w 0 5 = 0b11111#5 := by
  simp [← BitVec.toNat_inj, toNat_extract, show w.toNat &&& 31 = w.toNat % 32 from Nat.and_two_pow_sub_one_eq_mod _ 5]

/-- R199, R201: the row's constraint is that the operands are an instruction's. -/
theorem TableRow.wellFormed_instr {r : TableRow} {w : Word} (h : r.constraint w = true) :
    (r.instr w).wellFormed = true := by
  cases r with
  | blraa | blrab =>
    rwa [constraint, bne_iff_ne, ne_eq, and_op4Mask_eq_iff, ← ne_eq, ← bne_iff_ne] at h
  | _ => rfl

/-- R82: a word with a row's pattern has the bits of the row's instruction with the word's own fields. -/
theorem TableRow.hasWord_instr {r : TableRow} {w : Word} (h : r.selects w = true) : (r.instr w).HasWord w := by
  obtain ⟨hmask, hcon⟩ := (Bool.and_eq_true _ _).mp h
  have field := extract_of_and_eq (beq_iff_eq.mp hmask)
  refine ⟨wellFormed_instr hcon, ?_⟩
  cases r with
  | bCond | bcCond => exact and_eq_encodeCond_and (field 24 1 rfl) (field 4 1 rfl)
  | b | bl => exact and_eq_encodeUncondImm_and (field 31 1 rfl)
  | tbz | tbnz => exact and_eq_encodeTest_and (field 24 1 rfl)
  | cbz | cbnz => exact and_eq_encodeCompare_and (field 24 1 rfl)
  | br | braaz | brabz | ret =>
    exact and_eq_encodeRegIndirect_and ⟨field 21 4 rfl, field 16 5 rfl, field 10 6 rfl, rfl, field 0 5 rfl⟩
  | braa | brab => exact and_eq_encodeRegIndirect_and ⟨field 21 4 rfl, field 16 5 rfl, field 10 6 rfl, rfl, rfl⟩
  | blr | blraaz | blrabz =>
    exact and_eq_encodeBl_and ⟨rfl, field 16 5 rfl, field 10 6 rfl, rfl, field 0 5 rfl⟩
      ((extractLsb'_extract w (by decide)).trans (field 21 3 rfl)) rfl
  | blraa | blrab =>
    exact and_eq_encodeBl_and ⟨rfl, field 16 5 rfl, field 10 6 rfl, rfl, rfl⟩
      ((extractLsb'_extract w (by decide)).trans (field 21 3 rfl)) rfl
  | retaa | retab | eret | eretaa | eretab =>
    exact and_eq_encodeRegIndirect_and ⟨field 21 4 rfl, field 16 5 rfl, field 10 6 rfl, field 5 5 rfl, field 0 5 rfl⟩
  | drps => exact and_eq_encodeDrps_and (field 21 4 rfl) (field 16 5 rfl)

/-- Settles O33: the row of a decoded instruction selects the encoded word, and so every word with the same bits; a word
that a row selects has the bits of the row's instruction with the word's own fields. -/
theorem opcodeTableSelectsTheRow : Obligations.OpcodeTableSelectsTheRow := by
  intro g w r
  constructor
  · rintro ⟨i, hi, rfl⟩
    obtain ⟨hwf, hbits⟩ := hasWord_of_decodeInstr hi
    obtain ⟨hgroup, hselects⟩ := encodeFitsTable i hwf
    exact ⟨hgroup.trans (group_of_decodeInstr hi), (TableRow.selects_congr hbits).trans hselects⟩
  · rintro ⟨rfl, hselects⟩
    exact ⟨r.instr w, r.group_instr w ▸ decodeInstr_of_hasWord (TableRow.hasWord_instr hselects), r.row_instr w⟩

/-- R78: a row's complete pattern holds its group's top-level bits. -/
theorem TableRow.routeGroup_of_fullMask {r : TableRow} {w : Word} (h : w &&& r.fullMask = r.fullMatch) :
    routeGroup w = some r.group := by
  have field := extract_of_and_eq h
  cases r with
  | bCond | bcCond => exact routeGroup_of_cond (field 25 7 rfl)
  | b | bl => exact routeGroup_of_uncondImm (field 26 5 rfl)
  | tbz | tbnz => exact routeGroup_of_test (field 25 6 rfl)
  | cbz | cbnz => exact routeGroup_of_compare (field 25 6 rfl)
  | _ => exact routeGroup_of_regIndirect (field 25 7 rfl)

/-- A row's complete pattern holds the pattern that the block examines. -/
theorem TableRow.and_blockMask_of_fullMask {r : TableRow} {w : Word} (h : w &&& r.fullMask = r.fullMatch) :
    w &&& r.blockMask = r.blockMatch := by
  have hmask : r.fullMask &&& r.blockMask = r.blockMask := by cases r <;> rfl
  calc w &&& r.blockMask = w &&& r.fullMask &&& r.blockMask := by rw [BitVec.and_assoc, hmask]
    _ = r.fullMatch &&& r.blockMask := by rw [h]
    _ = r.blockMatch := by cases r <;> rfl

/-- Settles O34: the complete pattern holds the group bits, which route the word, and the row's own pattern, which
selects the row. -/
theorem fullPatternsRouteAndDecode : Obligations.FullPatternsRouteAndDecode := by
  intro r w h hcon
  have hselects : r.selects w = true :=
    (Bool.and_eq_true _ _).mpr ⟨beq_iff_eq.mpr (TableRow.and_blockMask_of_fullMask h), hcon⟩
  obtain ⟨i, hi, hrow⟩ := (opcodeTableSelectsTheRow r.group w r).mpr ⟨rfl, hselects⟩
  exact ⟨i, by simp only [decodeRouted, TableRow.routeGroup_of_fullMask h, hi], hrow⟩

/-! ### Encoded instructions, single words, steps and categories -/

/-- R51, R85: the bytes of a routed word give its instruction and leave the bytes after it. -/
theorem decodeBytes_bytesOfWord {w : Word} {i : Instr} (h : decodeRouted w = .ok i) (rest : List (BitVec 8)) :
    decodeBytes (bytesOfWord w ++ rest) = .ok (i, rest) := by
  simp only [bytesOfWord, List.cons_append, List.nil_append, decodeBytes, wordOfBytes_bytes, h]

/-- Settles O31: the dispatcher routes the encoded word to the instruction's group, whose decoder gives it back, and the
word's bytes are assembled to the word. -/
theorem decodeOfEncode : Obligations.DecodeOfEncode := fun i h =>
  ⟨routeGroup_encode i, decodeInstr_encode h, decodeBytes_bytesOfWord (decodeRouted_encode h)⟩

/-- Settles O30: ten closed words, each evaluated by its group's decoder. -/
theorem wordsOfTheSpecDecode : Obligations.WordsOfTheSpecDecode := by
  unfold Obligations.WordsOfTheSpecDecode
  decide

/-- Settles O1: a step's outputs are the record of the decoded instruction, and so are its meaning's. -/
theorem stepRunsTheDecodedInstruction : Obligations.StepRunsTheDecodedInstruction := fun _ _ _ hg hi =>
  step_of_decodeInstr_ok hg hi

/-- Settles O28: the category is a function of the instruction, whichever word it was decoded from. -/
theorem categoriesAreR81 : Obligations.CategoriesAreR81 := by
  intro g w r h
  obtain ⟨i, -, rfl⟩ := decode_eq_ok_iff.mp h
  cases i with
  | ret rn => simp [Instr.record, recRet_eq]
  | _ => rfl

end Sys2Proof

/-! PROOFS. The bit-field utilities: what the checked forms answer and refuse, sign extension bit by bit and as a number,
and the displacement of each immediate field (40_bitfield_utilities.md R120 to R127). -/

namespace Sys2Proof

open Machine

/-! ### The checked utilities -/

theorem Machine.extractChecked_of_fits {w : Word} {lo width : Nat} (hpos : 1 ≤ width) (hfit : lo + width ≤ 32) :
    extractChecked w lo width = .ok (extract w lo width) :=
  if_pos ⟨hpos, hfit⟩

theorem Machine.extractChecked_of_not_fits {w : Word} {lo width : Nat} (h : width = 0 ∨ 32 < lo + width) :
    extractChecked w lo width = .error .utilityArgument :=
  if_neg (by omega)

theorem Machine.testBitChecked_of_le {w : Word} {n : Nat} (h : n ≤ 31) : testBitChecked w n = .ok (testBit w n) :=
  if_pos h

theorem Machine.testBitChecked_of_lt {w : Word} {n : Nat} (h : 31 < n) :
    testBitChecked w n = .error .utilityArgument :=
  if_neg (by omega)

/-- Settles O38: inside its contract a checked utility answers what the plain one does, whose value is arithmetic on the
word's; outside it refuses. -/
theorem utilitiesKeepTheirContracts : Obligations.UtilitiesKeepTheirContracts := fun w lo width n =>
  ⟨fun hpos hfit => ⟨_, extractChecked_of_fits hpos hfit, rfl, toNat_extract w lo width⟩,
    extractChecked_of_not_fits,
    fun h => ⟨testBitChecked_of_le h, testBit_iff w n⟩,
    testBitChecked_of_lt⟩

/-! ### Sign extension -/

/-- R122: the sign of the low `ow` bits is bit `ow - 1` of the value. -/
theorem msb_setWidth_eq {n : Nat} (v : BitVec n) {ow : Nat} (h : 1 ≤ ow) :
    (v.setWidth ow).msb = v.getLsbD (ow - 1) := by
  rw [BitVec.msb_eq_getLsbD_last, BitVec.getLsbD_setWidth, decide_eq_true (by omega), Bool.true_and]

/-- R122 as a number: the result is the signed value of the low `ow` bits. -/
theorem toInt_signExtend_eq {n : Nat} (v : BitVec n) {ow tw : Nat} (h : ow ≤ tw) :
    (signExtend v ow tw).toInt = (v.setWidth ow).toInt :=
  BitVec.toInt_signExtend_of_le h

/-- Settles O39: below the original width the result has the value's own bits, and from there up the sign. -/
theorem signExtendReplicatesTheTopBit : Obligations.SignExtendReplicatesTheTopBit := by
  intro n ow tw v how _ _ j hj
  rw [signExtend, BitVec.getLsbD_signExtend, decide_eq_true hj, Bool.true_and]
  split
  case isTrue hlow => rw [BitVec.getLsbD_setWidth, decide_eq_true hlow, Bool.true_and]
  case isFalse => exact msb_setWidth_eq v how

/-- Settles O40: `corrected_sign` is `sign_extend` to 64 bits, whose number is that of the low `w` bits. -/
theorem signExtensionsAgree : Obligations.SignExtensionsAgree := fun _ v _ hw =>
  ⟨rfl, toInt_signExtend_eq v hw⟩

/-! ### Displacements -/

/-- A field with two zero bits appended and then sign-extended, as the exact integer (the call pattern of R142 and
R152). -/
theorem Machine.signExtend_append_zero_zero_eq {n : Nat} (v : BitVec (n + 1)) (h : n ≤ 61) :
    signExtend (v ++ 0b00#2) (n + 1 + 2) 64 = BitVec.ofInt 64 (4 * v.toInt) := by
  apply BitVec.eq_of_toInt_eq
  rw [toInt_ofInt_four_mul v h, toInt_signExtend_self (v ++ 0b00#2) 64 (by omega), toInt_append_zero_zero]

/-- Settles O41: both sides are the 64-bit form of the exact integer, 4 times the signed value of the field. -/
theorem scalingLaw : Obligations.ScalingLaw := by
  intro n v hpos hn
  obtain ⟨m, rfl⟩ := Nat.exists_eq_add_of_le' hpos
  rw [signExtend_append_zero_zero_eq v (by omega), correctedSign_mul_four_eq v (by omega)]

@[simp] theorem Machine.toInt_dispCond (v : BitVec 19) : (dispCond v).toInt = 4 * v.toInt := by
  rw [dispCond_eq, toInt_ofInt_four_mul v (by omega)]

@[simp] theorem Machine.toInt_dispUncondImm (v : BitVec 26) : (dispUncondImm v).toInt = 4 * v.toInt := by
  rw [dispUncondImm_eq, toInt_ofInt_four_mul v (by omega)]

@[simp] theorem Machine.toInt_dispTest (v : BitVec 14) : (dispTest v).toInt = 4 * v.toInt := by
  rw [dispTest_eq, toInt_ofInt_four_mul v (by omega)]

@[simp] theorem Machine.toInt_dispCompare (v : BitVec 19) : (dispCompare v).toInt = 4 * v.toInt := by
  rw [dispCompare_eq, toInt_ofInt_four_mul v (by omega)]

/-- R127: the displacements that a field of `n + 1` bits encodes. -/
def FieldEncodes (n : Nat) (d : Int) : Prop :=
  (4 : Int) ∣ d ∧ -(2 : Int) ^ (n + 2) ≤ d ∧ d ≤ (2 : Int) ^ (n + 2) - 4

/-- R127: the displacement of a field is one that the field encodes. -/
theorem FieldEncodes.four_mul_toInt {n : Nat} (v : BitVec (n + 1)) : FieldEncodes n (4 * v.toInt) :=
  ⟨Int.dvd_mul_right 4 _, four_mul_toInt_bounds v⟩

/-- R127: the field of a displacement in its range holds the displacement's quarter, signed. -/
theorem FieldEncodes.four_mul_toInt_dispField {n : Nat} {d : Int} (h : FieldEncodes n d) :
    4 * (dispField (n + 1) d).toInt = d := by
  obtain ⟨⟨k, rfl⟩, hlo, hhi⟩ := h
  rw [pow_add] at hlo hhi
  rw [dispField, Int.mul_ediv_cancel_left k (by norm_num),
    BitVec.toInt_ofInt_eq_self (by omega) (by rw [Nat.add_sub_cancel]; omega) (by rw [Nat.add_sub_cancel]; omega)]

/-- Settles O42: every displacement is 4 times its field's signed value, whatever the group, and `dispField` inverts that
on the range that the field encodes. -/
theorem displacementRoundTrip : Obligations.DisplacementRoundTrip := by
  intro d
  refine ⟨fun h => ?_, fun h => ?_, fun h => ?_, fun f => ?_, fun f => ?_, fun f => ?_⟩
  · have hd : 4 * (dispField 19 d).toInt = d := FieldEncodes.four_mul_toInt_dispField h
    exact ⟨(toInt_dispCond _).trans hd, (toInt_dispCompare _).trans hd⟩
  · exact (toInt_dispUncondImm _).trans (FieldEncodes.four_mul_toInt_dispField h)
  · exact (toInt_dispTest _).trans (FieldEncodes.four_mul_toInt_dispField h)
  · rw [toInt_dispCond, toInt_dispCompare, or_self]
    rintro rfl
    exact FieldEncodes.four_mul_toInt f
  · rintro rfl
    exact toInt_dispUncondImm f ▸ FieldEncodes.four_mul_toInt f
  · rintro rfl
    exact toInt_dispTest f ▸ FieldEncodes.four_mul_toInt f

end Sys2Proof

/-! PROOFS. Group COND: the record on the ports after `B.cond` and `BC.cond`, and the group's decoder
(41_conditional_branch.md R140 to R144). -/

namespace Sys2Proof

open Machine

/-- R140 to R142: the record of a COND branch, its displacement as the exact integer. -/
theorem Machine.recordCond_eq (m : Mnemonic) (imm19 : BitVec 19) (cond : BitVec 4) :
    recordCond m imm19 cond =
      { mnemonic := m, cond := some cond, slot0 := .pcrel (BitVec.ofInt 64 (4 * imm19.toInt)),
        slot1 := .none, slot2 := .none, category := .conditionalBranch } := by
  rw [recordCond, dispCond_eq, condAttached]

/-- Settles O5: each meaning drives its instruction's record, which is the COND record with that mnemonic. -/
theorem execCondBranch : Obligations.ExecCondBranch := by
  intro imm19 cond s
  rw [← recordCond_eq .b, ← recordCond_eq .bc]
  exact ⟨exec_eq (.bCond imm19 cond) s, exec_eq (.bcCond imm19 cond) s⟩

/-- R143: the check on `o1` comes before every other bit is looked at. -/
theorem decode_cond_of_o1_set {w : Word} (h : testBit w 24 = true) : decode .cond w = .error errO1 := by
  rw [decode_eq_error_iff, decodeInstr, decodeCond, if_pos h]

/-- R144: with `o1` clear, `o0` chooses the mnemonic and nothing else of the record. -/
theorem decode_cond_of_o1_clear {w : Word} (h : testBit w 24 = false) :
    decode .cond w = .ok (recordCond (if testBit w 4 then .bc else .b) (extract w 5 19) (extract w 0 4)) := by
  rw [decode, decodeInstr, decodeCond, if_neg (Bool.eq_false_iff.mp h)]
  cases testBit w 4 with
  | true => rfl
  | false => rfl

/-- Settles O14: the decoder's two cases on `o1`, the record's displacement as the exact integer. -/
theorem condDecoder : Obligations.CondDecoder := fun _ =>
  ⟨decode_cond_of_o1_set, fun h => (decode_cond_of_o1_clear h).trans (congrArg Except.ok (recordCond_eq ..))⟩

end Sys2Proof

/-! PROOFS. Group UNCOND_IMM: the record on the ports after `B` and `BL`, and the group's decoder
(42_unconditional_branch_imm.md R150 to R154). -/

namespace Sys2Proof

open Machine

/-- R150 to R152: the record of an UNCOND_IMM branch, its displacement as the exact integer. -/
theorem Machine.recordUncondImm_eq (m : Mnemonic) (imm26 : BitVec 26) :
    recordUncondImm m imm26 =
      { mnemonic := m, cond := none, slot0 := .pcrel (BitVec.ofInt 64 (4 * imm26.toInt)),
        slot1 := .none, slot2 := .none, category := .branch } := by
  rw [recordUncondImm, dispUncondImm_eq, condAbsent]

/-- Settles O6: each meaning drives its instruction's record, which is the UNCOND_IMM record with that mnemonic. -/
theorem execUncondImm : Obligations.ExecUncondImm := by
  intro imm26 s
  rw [← recordUncondImm_eq .b, ← recordUncondImm_eq .bl]
  exact ⟨exec_eq (.b imm26) s, exec_eq (.bl imm26) s⟩

/-- R153, R154: `op` chooses the mnemonic and nothing else of the record; no word is rejected. -/
theorem decode_uncondImm (w : Word) :
    decode .uncondImm w = .ok (recordUncondImm (if testBit w 31 then .bl else .b) (extract w 0 26)) := by
  rw [decode, decodeInstr, decodeUncondImm]
  cases testBit w 31 with
  | true => rfl
  | false => rfl

/-- Settles O15: the decoder's one answer, its record's displacement as the exact integer. -/
theorem uncondImmDecoder : Obligations.UncondImmDecoder := fun w =>
  (decode_uncondImm w).trans (congrArg Except.ok (recordUncondImm_eq ..))

end Sys2Proof

/-! PROOFS. Group TEST: the record on the ports after `TBZ` and `TBNZ`, and the group's decoder
(43_test_and_branch.md R160 to R165). -/

namespace Sys2Proof

open Machine

/-- R160 to R163: the record of a TEST branch, its bit index and its displacement as exact integers. -/
theorem Machine.recordTest_eq (m : Mnemonic) (b5 : Bool) (b40 : BitVec 5) (imm14 : BitVec 14) (rt : RegIndex) :
    recordTest m b5 b40 imm14 rt =
      { mnemonic := m, cond := none, slot0 := .reg ⟨b5, rt⟩,
        slot1 := .imm (BitVec.ofNat 64 ((if b5 then 32 else 0) + b40.toNat)),
        slot2 := .pcrel (BitVec.ofInt 64 (4 * imm14.toInt)), category := .conditionalBranch } := by
  rw [recordTest, bitIndex_eq, dispTest_eq, condAbsent, regByWidth_eq]

/-- Settles O7: each meaning drives its instruction's record, which is the TEST record with that mnemonic. -/
theorem execTestBranch : Obligations.ExecTestBranch := by
  intro b5 b40 imm14 rt s
  rw [← recordTest_eq .tbz, ← recordTest_eq .tbnz]
  exact ⟨exec_eq (.tbz b5 b40 imm14 rt) s, exec_eq (.tbnz b5 b40 imm14 rt) s⟩

/-- R164, R165: `op` chooses the mnemonic and nothing else of the record; no word is rejected. -/
theorem decode_test (w : Word) :
    decode .test w = .ok (recordTest (if testBit w 24 then .tbnz else .tbz) (testBit w 31) (extract w 19 5)
      (extract w 5 14) (extract w 0 5)) := by
  rw [decode, decodeInstr, decodeTest]
  cases testBit w 24 with
  | true => rfl
  | false => rfl

/-- Settles O16: the decoder's one answer, its record's bit index and displacement as exact integers. -/
theorem testDecoder : Obligations.TestDecoder := fun w =>
  (decode_test w).trans (congrArg Except.ok (recordTest_eq ..))

end Sys2Proof

/-! PROOFS. Group COMPARE: the record on the ports after `CBZ` and `CBNZ`, and the group's decoder
(44_compare_and_branch.md R170 to R175). -/

namespace Sys2Proof

open Machine

/-- R170 to R173: the record of a COMPARE branch, its register class and its displacement written out. -/
theorem Machine.recordCompare_eq (m : Mnemonic) (sf : Bool) (imm19 : BitVec 19) (rt : RegIndex) :
    recordCompare m sf imm19 rt =
      { mnemonic := m, cond := none, slot0 := .reg ⟨sf, rt⟩,
        slot1 := .pcrel (BitVec.ofInt 64 (4 * imm19.toInt)), slot2 := .none, category := .conditionalBranch } := by
  rw [recordCompare, dispCompare_eq, condAbsent, regByWidth_eq]

/-- Settles O8: each meaning drives its instruction's record, which is the COMPARE record with that mnemonic. -/
theorem execCompareBranch : Obligations.ExecCompareBranch := by
  intro sf imm19 rt s
  rw [← recordCompare_eq .cbz, ← recordCompare_eq .cbnz]
  exact ⟨exec_eq (.cbz sf imm19 rt) s, exec_eq (.cbnz sf imm19 rt) s⟩

/-- R174, R175: `op` chooses the mnemonic and nothing else of the record; no word is rejected. -/
theorem decode_compare (w : Word) :
    decode .compare w = .ok (recordCompare (if testBit w 24 then .cbnz else .cbz) (testBit w 31) (extract w 5 19)
      (extract w 0 5)) := by
  rw [decode, decodeInstr, decodeCompare]
  cases testBit w 24 with
  | true => rfl
  | false => rfl

/-- Settles O17: the decoder's one answer, its record's register class and displacement written out. -/
theorem compareDecoder : Obligations.CompareDecoder := fun w =>
  (decode_compare w).trans (congrArg Except.ok (recordCompare_eq ..))

end Sys2Proof

/-! PROOFS. Group REG_INDIRECT: the ports after each of its instructions, and its decoder family by family
(45_register_indirect.md R180 to R225). -/

namespace Sys2Proof

open Machine

/-! ### The ports after the instructions -/

/-- R207, R87: `RET` of register 30 has no operand. -/
theorem Machine.recRet_of_thirty {rn : RegIndex} (h : rn.toNat = 30) :
    recRet rn = ⟨.ret, none, .none, .none, .none, .ret⟩ := by
  rw [recRet_eq, if_pos (BitVec.eq_of_toNat_eq h)]

/-- R207: `RET` of any other register names it. -/
theorem Machine.recRet_of_ne_thirty {rn : RegIndex} (h : rn.toNat ≠ 30) :
    recRet rn = ⟨.ret, none, .reg (regX rn), .none, .none, .ret⟩ := by
  rw [recRet_eq, if_neg (mt (congrArg BitVec.toNat) h)]

/-- Every meaning drives the instruction's record, whichever form the record is written in. -/
theorem Machine.exec_of_record_eq (i : Instr) {r : DecodedInstr} (h : i.record = r) (s : State) :
    exec i s = .next { s with out := OutPorts.ofResult (.ok r) } :=
  h ▸ exec_eq i s

/-- Settles O9: each meaning drives its record, whose port codes are the definition's own values (R25, R27, R28). -/
theorem execBrFamily : Obligations.ExecBrFamily := fun rn op4 s =>
  ⟨exec_eq (.br rn) s, exec_eq (.braaz rn) s, exec_eq (.brabz rn) s, exec_eq (.braa rn op4) s,
    exec_eq (.brab rn op4) s⟩

/-- Settles O10: each meaning drives its record, for op4 = 31 as for any other modifier (log entry 7). -/
theorem execBlFamily : Obligations.ExecBlFamily := fun rn op4 s =>
  ⟨exec_eq (.blr rn) s, exec_eq (.blraaz rn) s, exec_eq (.blrabz rn) s, exec_eq (.blraa rn op4) s,
    exec_eq (.blrab rn op4) s⟩

/-- Settles O11: each meaning drives its record; that of `RET` has an operand or none, by its register. -/
theorem execRetFamily : Obligations.ExecRetFamily := fun rn s =>
  ⟨fun h => exec_of_record_eq (.ret rn) (recRet_of_ne_thirty h) s,
    fun h => exec_of_record_eq (.ret rn) (recRet_of_thirty h) s, exec_eq .retaa s, exec_eq .retab s⟩

/-- Settles O12: each meaning drives its record, which has no operand and asks nothing of the state. -/
theorem execEretAndDrps : Obligations.ExecEretAndDrps := fun s =>
  ⟨exec_eq .eret s, exec_eq .eretaa s, exec_eq .eretab s, exec_eq .drps s⟩

/-! ### The family an opc selects (R182, R183) -/

/-- R183: the opc values of no family (1010 and 1011: D12). -/
def unallocatedOpcs : List (BitVec 4) :=
  [0b0011#4, 0b0110#4, 0b0111#4, 0b1010#4, 0b1011#4, 0b1100#4, 0b1101#4, 0b1110#4, 0b1111#4]

section Decoder

variable {w : Word} {opc : BitVec 4} {op2 : BitVec 5} {op3 : BitVec 6} {rn op4 : BitVec 5}

theorem selectFamily_br (h : opc = 0b0000#4 ∨ opc = 0b1000#4) :
    selectFamily opc op2 op3 rn op4 = brFamily opc op3 rn op4 :=
  if_pos h

theorem selectFamily_ret : selectFamily 0b0010#4 op2 op3 rn op4 = retFamily op3 rn op4 := rfl

theorem selectFamily_eret : selectFamily 0b0100#4 op2 op3 rn op4 = eretFamily op2 op3 rn op4 := rfl

theorem selectFamily_unallocated (h : opc ∈ unallocatedOpcs) :
    selectFamily opc op2 op3 rn op4 = .error (unallocated .opc opc) := by
  simp only [unallocatedOpcs, List.mem_cons, List.not_mem_nil, or_false] at h
  obtain rfl | rfl | rfl | rfl | rfl | rfl | rfl | rfl | rfl := h <;> rfl

/-- R184: the record of the instruction that the selected family answers. -/
theorem decode_of_selectFamily_ok (hw : RegIndirectFields w opc 0b11111#5 op3 rn op4) (i : Instr)
    (h : selectFamily opc 0b11111#5 op3 rn op4 = .ok i) : decode .regIndirect w = .ok i.record :=
  decode_eq_ok_iff.mpr ⟨i, (decodeInstr_of_fields hw).trans h, rfl⟩

/-- R184: the error that the selected family answers. -/
theorem decode_of_selectFamily_error {e : DecodeError} (hw : RegIndirectFields w opc 0b11111#5 op3 rn op4)
    (h : selectFamily opc 0b11111#5 op3 rn op4 = .error e) : decode .regIndirect w = .error e :=
  decode_eq_error_iff.mpr ((decodeInstr_of_fields hw).trans h)

/-! ### What a family rejects -/

/-- R191: a combination of none of the five rows. -/
theorem brFamily_of_no_row (hbr : (opc, op3, op4) ≠ (0b0000#4, 0b000000#6, 0b00000#5))
    (hbraaz : (opc, op3, op4) ≠ (0b0000#4, 0b000010#6, 0b11111#5))
    (hbrabz : (opc, op3, op4) ≠ (0b0000#4, 0b000011#6, 0b11111#5))
    (hbraa : (opc, op3) ≠ (0b1000#4, 0b000010#6)) (hbrab : (opc, op3) ≠ (0b1000#4, 0b000011#6)) :
    brFamily opc op3 rn op4 = .error ⟨.unallocatedEncoding, .opcOp3Op4, 0#1 ++ opc ++ op3 ++ op4⟩ := by
  simp only [ne_eq, Prod.mk.injEq] at hbr hbraaz hbrabz hbraa hbrab
  rw [← packOpcOp3Op4_eq, brFamily, if_neg hbr, if_neg hbraaz, if_neg hbrabz, if_neg hbraa, if_neg hbrab]
  rfl

/-- R202: an op3 of no row. -/
theorem blFamily_of_no_op3 (h : op3 ∉ [0b000000#6, 0b000010#6, 0b000011#6]) :
    blFamily op3 rn op4 = .error ⟨.unallocatedEncoding, .op3, 0#10 ++ op3⟩ := by
  simp only [List.mem_cons, List.not_mem_nil, or_false, not_or] at h
  obtain ⟨h0, h2, h3⟩ := h
  rw [blFamily, if_neg h0, if_neg h2, if_neg h3, unallocated_op3]

/-- R211: an op3 of no row. -/
theorem retFamily_of_no_op3 (h : op3 ∉ [0b000000#6, 0b000010#6, 0b000011#6]) :
    retFamily op3 rn op4 = .error ⟨.unallocatedEncoding, .op3, 0#10 ++ op3⟩ := by
  simp only [List.mem_cons, List.not_mem_nil, or_false, not_or] at h
  obtain ⟨h0, h23⟩ := h
  rw [retFamily, if_neg h0, if_neg (not_or.mpr h23), unallocated_op3]

/-- R219: a combination of none of the three rows; the family's own check of op2 passes. -/
theorem eretFamily_of_no_row
    (h : (op3, rn, op4) ∉ [(0b000000#6, 0b11111#5, 0b00000#5), (0b000010#6, 0b11111#5, 0b11111#5),
      (0b000011#6, 0b11111#5, 0b11111#5)]) :
    eretFamily 0b11111#5 op3 rn op4 = .error ⟨.unallocatedEncoding, .op3RnOp4, op3 ++ rn ++ op4⟩ := by
  -- the family tests op4 before rn
  simp only [List.mem_cons, List.not_mem_nil, or_false, not_or, Prod.mk.injEq, and_comm (a := rn = _)] at h
  obtain ⟨heret, heretaa, heretab⟩ := h
  rw [← packOp3RnOp4_eq, eretFamily, if_neg (not_not.mpr rfl), if_neg heret, if_neg heretaa, if_neg heretab]
  rfl

/-- R205, R206: the check of `RET` on its low field. -/
theorem decode_ret_of_op4_ne (hw : RegIndirectFields w 0b0010#4 0b11111#5 0b000000#6 rn op4) (h : op4 ≠ 0b00000#5) :
    decode .regIndirect w = .error ⟨.malformedFixedField, .op4, 0#11 ++ op4⟩ := by
  rw [← malformed_five]
  exact decode_of_selectFamily_error hw (if_pos h)

end Decoder

/-! ### The decoder, family by family -/

/-- Settles O18: the check on op2 precedes the selection by opc. -/
theorem op2CheckComesFirst : Obligations.Op2CheckComesFirst := by
  intro w opc op2 op3 rn op4 hw hop2
  rw [decode_eq_error_iff, decodeInstr_of_op2_ne hw hop2, malformed_five]

/-- Settles O19: no family takes the opc. -/
theorem unallocatedOpcIsRejected : Obligations.UnallocatedOpcIsRejected := by
  intro w opc op3 rn op4 hw hopc
  rw [← unallocated_opc]
  exact decode_of_selectFamily_error hw (selectFamily_unallocated hopc)

/-- Settles O20: a row's values select it, and a word with no row's values passes all five tests by. -/
theorem brFamilyDecoder : Obligations.BrFamilyDecoder := by
  intro w opc op3 rn op4 hw hopc
  refine ⟨?br, ?braaz, ?brabz, ?braa, ?brab, ?error⟩
  case br => rintro ⟨⟩; exact decode_of_selectFamily_ok hw (.br rn) rfl
  case braaz => rintro ⟨⟩; exact decode_of_selectFamily_ok hw (.braaz rn) rfl
  case brabz => rintro ⟨⟩; exact decode_of_selectFamily_ok hw (.brabz rn) rfl
  case braa => rintro ⟨⟩; exact decode_of_selectFamily_ok hw (.braa rn op4) rfl
  case brab => rintro ⟨⟩; exact decode_of_selectFamily_ok hw (.brab rn op4) rfl
  case error =>
    intro hbr hbraaz hbrabz hbraa hbrab
    exact decode_of_selectFamily_error hw
      ((selectFamily_br hopc).trans (brFamily_of_no_row hbr hbraaz hbrabz hbraa hbrab))

/-- Settles O21: op3 picks the pair of rows, op4 the row; bit 3 of opc plays no part. -/
theorem blFamilyDecoder : Obligations.BlFamilyDecoder := by
  intro w opc op3 rn op4 hw hopc
  have hfamily : selectFamily opc 0b11111#5 op3 rn op4 = blFamily op3 rn op4 :=
    selectFamily_bl ((opcLow_eq_one_iff opc).mpr hopc) ..
  refine ⟨?blr, ?blrError, ?blraaz, ?blraa, ?blrabz, ?blrab, ?error⟩
  case blr => rintro rfl rfl; exact decode_of_selectFamily_ok hw (.blr rn) hfamily
  case blrError =>
    rintro rfl hop4
    rw [← malformed_five]
    exact decode_of_selectFamily_error hw (hfamily.trans (if_pos hop4))
  case blraaz => rintro rfl rfl; exact decode_of_selectFamily_ok hw (.blraaz rn) hfamily
  case blraa => rintro rfl hop4; exact decode_of_selectFamily_ok hw (.blraa rn op4) (hfamily.trans (if_neg hop4))
  case blrabz => rintro rfl rfl; exact decode_of_selectFamily_ok hw (.blrabz rn) hfamily
  case blrab => rintro rfl hop4; exact decode_of_selectFamily_ok hw (.blrab rn op4) (hfamily.trans (if_neg hop4))
  case error => exact fun hop3 => decode_of_selectFamily_error hw (hfamily.trans (blFamily_of_no_op3 hop3))

/-- Settles O22: the RET family's first check, before rn is looked at. -/
theorem retLowFieldMustBeZero : Obligations.RetLowFieldMustBeZero := fun _ _ _ hw hop4 =>
  decode_ret_of_op4_ne hw hop4

/-- Settles O23: op3 = 0 is `RET`, whose register decides its operand; for `RETAA` and `RETAB` the check on rn precedes
the one on op4. -/
theorem retFamilyDecoder : Obligations.RetFamilyDecoder := by
  intro w op3 rn op4 hw
  refine ⟨?retError, ?retThirty, ?ret, ?rnError, ?op4Error, ?retaa, ?retab, ?error⟩
  case retError => rintro rfl hop4; exact decode_ret_of_op4_ne hw hop4
  case retThirty =>
    rintro rfl rfl hrn
    exact (decode_of_selectFamily_ok hw (.ret rn) rfl).trans (congrArg Except.ok (recRet_of_thirty hrn))
  case ret =>
    rintro rfl rfl hrn
    exact (decode_of_selectFamily_ok hw (.ret rn) rfl).trans (congrArg Except.ok (recRet_of_ne_thirty hrn))
  case rnError =>
    intro hop3 hrn
    rw [← malformed_five]
    apply decode_of_selectFamily_error hw
    obtain rfl | rfl := hop3 <;> exact if_pos hrn
  case op4Error =>
    rintro hop3 rfl hop4
    rw [← malformed_five]
    apply decode_of_selectFamily_error hw
    obtain rfl | rfl := hop3 <;> exact if_pos hop4
  case retaa => rintro rfl rfl rfl; exact decode_of_selectFamily_ok hw .retaa rfl
  case retab => rintro rfl rfl rfl; exact decode_of_selectFamily_ok hw .retab rfl
  case error => exact fun hop3 => decode_of_selectFamily_error hw (selectFamily_ret.trans (retFamily_of_no_op3 hop3))

/-- Settles O24: a row's values select it, and a word with no row's values passes all three tests by. -/
theorem eretFamilyDecoder : Obligations.EretFamilyDecoder := by
  intro w op3 rn op4 hw
  refine ⟨?eret, ?eretaa, ?eretab, ?error⟩
  case eret => rintro ⟨⟩; exact decode_of_selectFamily_ok hw .eret rfl
  case eretaa => rintro ⟨⟩; exact decode_of_selectFamily_ok hw .eretaa rfl
  case eretab => rintro ⟨⟩; exact decode_of_selectFamily_ok hw .eretab rfl
  case error => exact fun hrow => decode_of_selectFamily_error hw (selectFamily_eret.trans (eretFamily_of_no_row hrow))

/-- Settles O25: `DRPS` has no check after opc. -/
theorem drpsFamilyDecoder : Obligations.DrpsFamilyDecoder := fun _ _ _ _ hw =>
  decode_of_selectFamily_ok hw .drps rfl

/-- Settles O36: the BL family is a function of op3, rn and op4; `DRPS` and the error of an unallocated opc are each one
value for the opc. -/
theorem familiesReadOnlyTheirBits : Obligations.FamiliesReadOnlyTheirBits := by
  intro w w' opc opc' op3 op3' rn rn' op4 op4' hw hw'
  refine ⟨fun hopc hopc' hop3 hrn hop4 => decode_congr ?bl, fun hopc heq => decode_congr ?rest⟩
  case bl =>
    rw [List.mem_pair, ← opcLow_eq_one_iff] at hopc hopc'
    rw [decodeInstr_of_fields hw, decodeInstr_of_fields hw', selectFamily_bl hopc, selectFamily_bl hopc', hop3,
      hrn, hop4]
  case rest =>
    subst heq
    rw [decodeInstr_of_fields hw, decodeInstr_of_fields hw']
    obtain rfl | hopc : opc = 0b0101#4 ∨ opc ∈ unallocatedOpcs := List.mem_cons.mp hopc
    · rfl
    · rw [selectFamily_unallocated hopc, selectFamily_unallocated hopc]

end Sys2Proof

/-! PROOFS. Decode errors: the step of a word that is rejected (R230, R239), and the sites of R234, each with its own
error (60_exceptions.md). -/

namespace Sys2Proof

open Machine

/-- Settles O2: a step drives the decoder's error, whose ports are zero but for the three error ports (R30). -/
theorem decodeErrorIsAnOutputNotATrap : Obligations.DecodeErrorIsAnOutputNotATrap := by
  intro s g e hg he
  rw [step_of_group hg, decode_eq_error_iff.mpr he]
  rfl

/-! ### The error sites of each family -/

section Sites

variable {opc : BitVec 4} {op3 : BitVec 6} {rn op4 : BitVec 5} {e : DecodeError}

/-- R185, R191: the BR family rejects what none of its five rows has. -/
theorem brFamily_eq_error_iff : brFamily opc op3 rn op4 = .error e ↔
    (opc, op3, op4) ∉ [(0b0000#4, 0b000000#6, 0b00000#5), (0b0000#4, 0b000010#6, 0b11111#5),
      (0b0000#4, 0b000011#6, 0b11111#5)] ∧
    (opc, op3) ∉ [(0b1000#4, 0b000010#6), (0b1000#4, 0b000011#6)] ∧
    e = ⟨.unallocatedEncoding, .opcOp3Op4, 0#1 ++ opc ++ op3 ++ op4⟩ := by
  rw [← packOpcOp3Op4_eq, brFamily]
  split_ifs with hbr hbraaz hbrabz hbraa hbrab
  · simp [hbr]
  · simp [hbraaz]
  · simp [hbrabz]
  · simp [hbraa]
  · simp [hbrab]
  · simp [hbr, hbraaz, hbrabz, hbraa, hbrab, unallocated, eq_comm (a := e)]

/-- R195, R197, R202: the BL family has one site for op3 = 0 and one for an op3 of no row. -/
theorem blFamily_eq_error_iff : blFamily op3 rn op4 = .error e ↔
    (op3 = 0b000000#6 ∧ op4 ≠ 0b00000#5 ∧ e = ⟨.malformedFixedField, .op4, 0#11 ++ op4⟩) ∨
    (op3 ∉ [0b000000#6, 0b000010#6, 0b000011#6] ∧ e = ⟨.unallocatedEncoding, .op3, 0#10 ++ op3⟩) := by
  rw [← malformed_five, ← unallocated_op3, blFamily]
  split_ifs with h0 hop4 h2 hop4 h3 hop4
  · simp [h0, hop4, eq_comm (a := e)]
  · simp [h0, hop4]
  · simp [h2]
  · simp [h2]
  · simp [h3]
  · simp [h3]
  · simp [h0, h2, h3, eq_comm (a := e)]

/-- R205, R206, R210, R211: the RET family has one site for op3 = 0, two for `RETAA` and `RETAB`, rn before op4 (D11),
and one for an op3 of no row. -/
theorem retFamily_eq_error_iff : retFamily op3 rn op4 = .error e ↔
    (op3 = 0b000000#6 ∧ op4 ≠ 0b00000#5 ∧ e = ⟨.malformedFixedField, .op4, 0#11 ++ op4⟩) ∨
    (op3 ∈ [0b000010#6, 0b000011#6] ∧ rn ≠ 0b11111#5 ∧ e = ⟨.malformedFixedField, .rn, 0#11 ++ rn⟩) ∨
    (op3 ∈ [0b000010#6, 0b000011#6] ∧ rn = 0b11111#5 ∧ op4 ≠ 0b11111#5 ∧
      e = ⟨.malformedFixedField, .op4, 0#11 ++ op4⟩) ∨
    (op3 ∉ [0b000000#6, 0b000010#6, 0b000011#6] ∧ e = ⟨.unallocatedEncoding, .op3, 0#10 ++ op3⟩) := by
  rw [← malformed_five, ← malformed_five, ← unallocated_op3, retFamily]
  split_ifs with h0 hop4 h23 hrn hop4 h2
  · simp [h0, hop4, eq_comm (a := e)]
  · simp [h0, hop4]
  · obtain rfl | rfl := h23 <;> simp [hrn, eq_comm (a := e)]
  · obtain rfl | rfl := h23 <;> simp [not_not.mp hrn, hop4, eq_comm (a := e)]
  · simp [h2, hrn, hop4]
  · simp [h23.resolve_left h2, hrn, hop4]
  · simp [h0, not_or.mp h23, eq_comm (a := e)]

/-- R215, R219: the ERET family rejects what none of its three rows has; its own check of op2 passes. -/
theorem eretFamily_eq_error_iff : eretFamily 0b11111#5 op3 rn op4 = .error e ↔
    (op3, rn, op4) ∉ [(0b000000#6, 0b11111#5, 0b00000#5), (0b000010#6, 0b11111#5, 0b11111#5),
      (0b000011#6, 0b11111#5, 0b11111#5)] ∧
    e = ⟨.unallocatedEncoding, .op3RnOp4, op3 ++ rn ++ op4⟩ := by
  rw [← packOp3RnOp4_eq, eretFamily, if_neg (not_not.mpr rfl)]
  split_ifs with heret heretaa heretab
  · simp [heret]
  · simp [heretaa]
  · simp [heretab]
  · simp only [and_comm (a := op4 = _)] at heret heretaa heretab
    simp [heret, heretaa, heretab, unallocated, eq_comm (a := e)]

theorem selectFamily_drps : selectFamily 0b0101#4 0b11111#5 op3 rn op4 = .ok .drps := rfl

/-- R182, R183: every opc is one of a family or is unallocated. -/
theorem opc_cases (opc : BitVec 4) : opc ∈ [0b0000#4, 0b1000#4] ∨ opc ∈ [0b0001#4, 0b1001#4] ∨ opc = 0b0010#4 ∨
    opc = 0b0100#4 ∨ opc = 0b0101#4 ∨ opc ∈ unallocatedOpcs := by
  revert opc; decide

end Sites

/-! ### The error sites of the block -/

/-- R143, R144: a COND word is rejected at its one site. -/
theorem decode_cond_eq_error_iff {w : Word} {e : DecodeError} :
    decode .cond w = .error e ↔ testBit w 24 = true ∧ e = errO1 := by
  cases h : testBit w 24 with
  | true => simp [decode_cond_of_o1_set h, eq_comm (a := e)]
  | false => simp [decode_cond_of_o1_clear h]

/-- Settles O26: outside the register-indirect group only COND has a site; within it, once op2 is checked, opc selects a
family and so that family's sites, an opc of no family being a site itself. -/
theorem errorSitesAreExactlyR234 : Obligations.ErrorSitesAreExactlyR234 := by
  refine ⟨fun w e => ⟨decode_cond_eq_error_iff, by simp [decode_uncondImm], by simp [decode_test],
    by simp [decode_compare]⟩, ?_⟩
  intro w opc op2 op3 rn op4 e hw
  rw [decode_eq_error_iff]
  by_cases hop2 : op2 = 0b11111#5
  · subst hop2
    rw [decodeInstr_of_fields hw]
    obtain hbr | hbl | rfl | rfl | rfl | hopc := opc_cases opc
    · rw [List.mem_pair] at hbr
      rw [selectFamily_br hbr, brFamily_eq_error_iff]
      obtain rfl | rfl := hbr <;> simp
    · rw [List.mem_pair] at hbl
      rw [selectFamily_bl ((opcLow_eq_one_iff opc).mpr hbl), blFamily_eq_error_iff]
      obtain rfl | rfl := hbl <;> simp
    · simp [selectFamily_ret, retFamily_eq_error_iff]
    · simp [selectFamily_eret, eretFamily_eq_error_iff]
    · simp [selectFamily_drps]
    · rw [selectFamily_unallocated hopc, unallocated_opc]
      simp only [unallocatedOpcs, List.mem_cons, List.not_mem_nil, or_false] at hopc
      obtain rfl | rfl | rfl | rfl | rfl | rfl | rfl | rfl | rfl := hopc <;> simp [eq_comm (a := e)]
  · rw [decodeInstr_of_op2_ne hw hop2, malformed_five]
    simp [hop2, eq_comm (a := e)]

end Sys2Proof

/-! PROOFS. Power-up, repetition, sessions and sampling: a step leaves the ports settled, and the settled states are those
that a step leaves as they are (R260, R263, R265; 70_reset_and_hazards.md). -/

namespace Sys2Proof

open Machine

/-! ### Settled states -/

/-- R5, R71: the outputs after a step are the function of the inputs before it. -/
theorem Machine.outputsOf_of_step {s t : State} (h : step s = .next t) : outputsOf s.grp s.word = some t.out :=
  (exists_step_next_out_iff s t.out).mp ⟨t, h, rfl⟩

/-- R37: a step changes no input. -/
theorem Machine.inputs_of_step {s t : State} (h : step s = .next t) : t.grp = s.grp ∧ t.word = s.word := by
  obtain ⟨g, -, rfl⟩ := step_next_cases h
  exact ⟨rfl, rfl⟩

/-- R22: a step answers only inside the contract. -/
theorem Machine.inContract_of_step {s t : State} (h : step s = .next t) : s.InContract := by
  obtain ⟨g, hg, -⟩ := step_next_cases h
  exact (ofCode_isSome_iff s.grp).mp (Option.isSome_of_eq_some hg)

/-- Driving the result that stands on the outputs changes nothing. -/
theorem Machine.State.drive_eq_self {s : State} {r : Result} (h : OutPorts.ofResult r = s.out) : s.drive r = s := by
  rw [State.drive, h]

/-- R260, R263: the ports are settled exactly when another step changes nothing. -/
theorem Machine.step_eq_next_self_iff (s : State) : step s = .next s ↔ s.Settled := by
  refine ⟨outputsOf_of_step, fun hs => ?_⟩
  obtain ⟨t, ht, hout⟩ := (exists_step_next_out_iff s s.out).mpr hs
  obtain ⟨g, -, rfl⟩ := step_next_cases ht
  rw [ht, State.drive_eq_self hout]

/-- Settles O47: the outputs driven are the function of inputs that the step leaves on the ports. -/
theorem stepSettlesTheOutputs : Obligations.StepSettlesTheOutputs := by
  intro s t h
  obtain ⟨hgrp, hword⟩ := inputs_of_step h
  refine ⟨?_, ?_, hgrp, hword⟩
  · rw [State.Settled, hgrp, hword]
    exact outputsOf_of_step h
  · rw [State.InContract, hgrp]
    exact inContract_of_step h

/-- Settles O48: a step leaves the ports settled, and a settled state steps to itself. -/
theorem decodingTwiceIsIdentical : Obligations.DecodingTwiceIsIdentical := by
  intro s t h
  obtain ⟨hsettled, -⟩ := stepSettlesTheOutputs s t h
  exact (step_eq_next_self_iff t).mpr hsettled

/-! ### Power-up -/

/-- R144, R260: the block evaluates the power-up inputs to the power-up outputs. -/
theorem Machine.step_reset : step State.reset = .next State.reset := rfl

/-- Settles O46: the power-up state is the next state of a step, its own. -/
theorem powerUpIsLegalAndSettled : Obligations.PowerUpIsLegalAndSettled :=
  ⟨stepKeepsPortsLegal _ _ step_reset, (step_eq_next_self_iff _).mp step_reset, inContract_of_step step_reset⟩

/-! ### Sessions and samples -/

/-- R22, R71: the outputs for a group's own code are the ports of the decoding in that group. -/
theorem outputsOf_code (g : EncGroup) (w : Word) :
    outputsOf g.code w = some (OutPorts.ofResult (Result.ofDecode (decode g w))) := by
  rw [outputsOf, ofCode_code]

/-- Settles O50: the codes of groups are in the contract, so the session answers, and it reads each input's own ports. -/
theorem sessionResultsAreEachInputsOwn : Obligations.SessionResultsAreEachInputsOwn := by
  intro l s
  rw [exists_session_next_iff, List.forall₂_map_left_iff, List.forall₂_map_right_iff, List.forall₂_same]
  exact fun p _ => outputsOf_code p.1 p.2

/-- R265: from `T_PD` on the host reads the outputs after the evaluation. -/
theorem Machine.sampleAfter_of_tPD_le {elapsed : Nat} (h : Config.tPD ≤ elapsed) (old settled : State) :
    sampleAfter elapsed old settled = settled.out :=
  if_neg (Nat.not_lt.mpr h)

/-- Settles O52: the wait is over, and the outputs after the evaluation are the function of its inputs. -/
theorem sampleAfterTpdIsSettled : Obligations.SampleAfterTpdIsSettled := by
  intro old s t elapsed h hwait
  rw [sampleAfter_of_tPD_le hwait]
  exact outputsOf_of_step h

end Sys2Proof
